-- ==== Sys2Proof/Word.lean ====
section
/-! DEFINITION. The word types of the engine (00_scope.md R9, R16): blocks and registers of 32 bits, halves and subkeys
of 16, bytes of 8, S-box entries of 4, and the 16-entry table of 43_sbox_permutation_rom.md. -/

namespace Sys2Proof

/-- A register, a block, an LFSR state or a command word: 32 bits (R9, R34). -/
abbrev Word := BitVec 32

/-- A half block, a subkey or an immediate: 16 bits (R9, R121). -/
abbrev Half := BitVec 16

/-- One byte of a message buffer (R47). -/
abbrev Byte := BitVec 8

/-- One S-box entry: 4 bits in, 4 bits out (R9). -/
abbrev Nibble := BitVec 4

/-- A 16-entry table of 4-bit values (R51): entry `i` is the image of nibble `i`. -/
abbrev Table := Vector Nibble 16

end Sys2Proof
end

