-- ==== Sys2Proof/Syntax.lean ====
section
/-! DEFINITION. The command set (30_encoding.md R122): one constructor per row of the opcode table. A command carries its
16-bit immediate where its format has one (R121: formats I and S), and no register fields (R126). -/

namespace Sys2Proof

/-- The commands of the opcode map (R122), in the table's order. -/
inductive Instr where
  /-- NOP, OPC 0x00 (R155). -/
  | nop
  /-- KEY_LOAD, OPC 0x01 (R210). -/
  | keyLoad
  /-- SBOX_LOAD, OPC 0x02 (R211). -/
  | sboxLoad
  /-- SBOX_RD, OPC 0x03, format S: IMM[1] is TAB, IMM[0] is HALF, IMM[15:2] must be 0 (R126, R212). -/
  | sboxRd (imm : Half)
  /-- ROTL16, OPC 0x10, format I: IMM is the signed rotate amount (R125, R171). -/
  | rotl16 (imm : Half)
  /-- LFSR_STEP, OPC 0x20 (R184). -/
  | lfsrStep
  /-- SUBST, OPC 0x30 (R213). -/
  | subst
  /-- ISUBST, OPC 0x31 (R214). -/
  | isubst
  /-- PERM, OPC 0x40 (R235). -/
  | perm
  /-- IPERM, OPC 0x41 (R236). -/
  | iperm
  /-- ROUNDF, OPC 0x50, format I: IMM is the subkey (R124, R255). -/
  | roundf (imm : Half)
  /-- ENC_ROUND, OPC 0x51, format I: IMM is the subkey (R124, R256). -/
  | encRound (imm : Half)
  /-- DEC_ROUND, OPC 0x52, format I: IMM is the subkey (R124, R257). -/
  | decRound (imm : Half)
  /-- ENC_BLK, OPC 0x60 (R275). -/
  | encBlk
  /-- DEC_BLK, OPC 0x61 (R276). -/
  | decBlk
  /-- ENC_MSG, OPC 0x70 (R296). -/
  | encMsg
  /-- DEC_MSG, OPC 0x71 (R297). -/
  | decMsg
  deriving DecidableEq, Repr

end Sys2Proof
end

