-- ==== Sys2Proof/WellFormed.lean ====
section
/-! DEFINITION. Which terms of `Instr` stand for a command word (30_encoding.md R121). Formats Z and I put no condition
on a term (a Z command carries no immediate, every value of an I immediate is legal); format S asks IMM[15:2] = 0. -/

namespace Sys2Proof

/-- The selector of format S lies in 0..3: IMM[15:2] = 0 (R121). -/
def selectorLegal (imm : Half) : Bool := imm.extractLsb' 2 14 == 0#14

/-- The immediate constraint of the command's format (R121). -/
def Instr.wellFormed : Instr → Bool
  | .nop => true
  | .keyLoad => true
  | .sboxLoad => true
  | .sboxRd imm => selectorLegal imm
  | .rotl16 _ => true
  | .lfsrStep => true
  | .subst => true
  | .isubst => true
  | .perm => true
  | .iperm => true
  | .roundf _ => true
  | .encRound _ => true
  | .decRound _ => true
  | .encBlk => true
  | .decBlk => true
  | .encMsg => true
  | .decMsg => true

end Sys2Proof
end

