-- ==== Sys2Proof/Decode.lean ====
section
/-! DEFINITION. Decoding and encoding of the 32-bit command word (30_encoding.md R120 to R128). The opcode map is a list
of rows read like the table of R122; `decode` is R127, total on every word and rejecting by name; `encode` is the
assembled word of R129. -/

namespace Sys2Proof

/-- The three formats of R121. -/
inductive Format where
  /-- IMM unused: it must be 0x0000. -/
  | z
  /-- IMM used whole: every value is legal. -/
  | i
  /-- IMM[1:0] is a selector: IMM[15:2] must be 0. -/
  | s
  deriving DecidableEq, Repr

/-- Why a word is `Illegal` (R127, R128). -/
inductive Reject where
  /-- The OPC is in no row of R122. -/
  | unassignedOpc (opc : BitVec 8)
  /-- RSV, bits 23:16, is not zero. -/
  | reservedNotZero
  /-- A Z-format word with IMM != 0. -/
  | immediateNotZero
  /-- An S-format word with IMM[15:2] != 0. -/
  | selectorTooLarge
  deriving DecidableEq, Repr

/-- One row of the opcode map (R122). -/
structure Row where
  opc : BitVec 8
  mnemonic : String
  format : Format
  make : Half → Instr

/-- The session commands and NOP: OPC 0x00 to 0x03 (R122). -/
def tableSession : List Row :=
  [⟨0x00#8, "NOP", .z, fun _ => .nop⟩, ⟨0x01#8, "KEY_LOAD", .z, fun _ => .keyLoad⟩,
   ⟨0x02#8, "SBOX_LOAD", .z, fun _ => .sboxLoad⟩, ⟨0x03#8, "SBOX_RD", .s, fun imm => .sboxRd imm⟩]

/-- The 16-bit and LFSR commands: OPC 0x10 to 0x41 (R122). -/
def tableHalves : List Row :=
  [⟨0x10#8, "ROTL16", .i, fun imm => .rotl16 imm⟩, ⟨0x20#8, "LFSR_STEP", .z, fun _ => .lfsrStep⟩,
   ⟨0x30#8, "SUBST", .z, fun _ => .subst⟩, ⟨0x31#8, "ISUBST", .z, fun _ => .isubst⟩,
   ⟨0x40#8, "PERM", .z, fun _ => .perm⟩, ⟨0x41#8, "IPERM", .z, fun _ => .iperm⟩]

/-- The round, block and message commands: OPC 0x50 to 0x71 (R122). -/
def tableBlocks : List Row :=
  [⟨0x50#8, "ROUNDF", .i, fun imm => .roundf imm⟩, ⟨0x51#8, "ENC_ROUND", .i, fun imm => .encRound imm⟩,
   ⟨0x52#8, "DEC_ROUND", .i, fun imm => .decRound imm⟩, ⟨0x60#8, "ENC_BLK", .z, fun _ => .encBlk⟩,
   ⟨0x61#8, "DEC_BLK", .z, fun _ => .decBlk⟩, ⟨0x70#8, "ENC_MSG", .z, fun _ => .encMsg⟩,
   ⟨0x71#8, "DEC_MSG", .z, fun _ => .decMsg⟩]

/-- The opcode map of R122. -/
def opcodeMap : List Row := tableSession ++ tableHalves ++ tableBlocks

/-- OPC, bits 31:24 (R121). -/
def opcField (w : Word) : BitVec 8 := w.extractLsb' 24 8

/-- RSV, bits 23:16 (R121). -/
def rsvField (w : Word) : BitVec 8 := w.extractLsb' 16 8

/-- IMM, bits 15:0 (R121). -/
def immField (w : Word) : Half := w.extractLsb' 0 16

/-- R127: a total function from a word to a command with its immediate, or `Illegal` with its reason. -/
def decode (w : Word) : Except Reject Instr :=
  match opcodeMap.find? (fun r => r.opc == opcField w) with
  | none => .error (.unassignedOpc (opcField w))
  | some r =>
    if rsvField w ≠ 0#8 then .error .reservedNotZero
    else
      match r.format with
      | .z => if immField w ≠ 0#16 then .error .immediateNotZero else .ok (r.make (immField w))
      | .s => if selectorLegal (immField w) then .ok (r.make (immField w)) else .error .selectorTooLarge
      | .i => .ok (r.make (immField w))

/-- The OPC of a command (R122). -/
def opcOf : Instr → BitVec 8
  | .nop => 0x00#8
  | .keyLoad => 0x01#8
  | .sboxLoad => 0x02#8
  | .sboxRd _ => 0x03#8
  | .rotl16 _ => 0x10#8
  | .lfsrStep => 0x20#8
  | .subst => 0x30#8
  | .isubst => 0x31#8
  | .perm => 0x40#8
  | .iperm => 0x41#8
  | .roundf _ => 0x50#8
  | .encRound _ => 0x51#8
  | .decRound _ => 0x52#8
  | .encBlk => 0x60#8
  | .decBlk => 0x61#8
  | .encMsg => 0x70#8
  | .decMsg => 0x71#8

/-- The IMM of a command's word: its immediate, or 0x0000 in format Z (R121). -/
def immOf : Instr → Half
  | .nop => 0#16
  | .keyLoad => 0#16
  | .sboxLoad => 0#16
  | .sboxRd imm => imm
  | .rotl16 imm => imm
  | .lfsrStep => 0#16
  | .subst => 0#16
  | .isubst => 0#16
  | .perm => 0#16
  | .iperm => 0#16
  | .roundf imm => imm
  | .encRound imm => imm
  | .decRound imm => imm
  | .encBlk => 0#16
  | .decBlk => 0#16
  | .encMsg => 0#16
  | .decMsg => 0#16

/-- `{OPC, 0x00, IMM}` (R129). -/
def assembleWord (opc : BitVec 8) (imm : Half) : Word := opc ++ 0#8 ++ imm

/-- The command word of a well-formed command (R121, R129). -/
def encode (i : Instr) : Word := assembleWord (opcOf i) (immOf i)

/-- The format of a command (R122). -/
def formatOf : Instr → Format
  | .nop => .z
  | .keyLoad => .z
  | .sboxLoad => .z
  | .sboxRd _ => .s
  | .rotl16 _ => .i
  | .lfsrStep => .z
  | .subst => .z
  | .isubst => .z
  | .perm => .z
  | .iperm => .z
  | .roundf _ => .i
  | .encRound _ => .i
  | .decRound _ => .i
  | .encBlk => .z
  | .decBlk => .z
  | .encMsg => .z
  | .decMsg => .z

/-- The mask of a format (R123). -/
def formatMask : Format → Word
  | .z => 0xFFFFFFFF#32
  | .i => 0xFFFF0000#32
  | .s => 0xFFFFFFFC#32

/-- The match word of an OPC: `o << 24` (R123). -/
def opcMatch (opc : BitVec 8) : Word := opc.setWidth 32 <<< 24

/-- The command the decoder reads from an opcode-table word of `nbits` bits, bit 0 the least significant bit of the one
command word; the bits above `nbits` are 0. A command word is written to CMD whole (R120, R35), so it has no byte
layout of its own (DEDUCED, notes/assumptions/17.md). -/
def decodeTableWord (nbits w : Nat) : Option Instr :=
  match decode (BitVec.ofNat 32 (w % 2 ^ nbits)) with
  | .ok i => some i
  | .error _ => none

end Sys2Proof
end

