-- ==== Sys2Proof/Config.lean ====
section
/-! DEFINITION. The configuration of one engine (00_scope.md section 4) and the free values of the model. The
configuration's only numeric parameter, `MSG_MAX_BYTES` (R11), is a record a state carries and no step changes, so a
statement about every state is a statement about every legal size. `SBOX_GEN` (R12) and the draws (R19, R88) are
opaque: they have no body, so no proof can see what they answer. -/

namespace Sys2Proof

/-- The parameters of one engine that a host can observe through PARAM (R48). -/
structure Config where
  /-- `MSG_MAX_BYTES`, the capacity of IBUF in bytes (R11). -/
  msgMaxBytes : Nat
  /-- R11: it is a multiple of 4. -/
  wholeWords : msgMaxBytes % 4 = 0
  /-- R11: at least 4. -/
  atLeastOneWord : 4 ≤ msgMaxBytes
  /-- R11: at most 16380. -/
  fitsWindow : msgMaxBytes ≤ 16380
  deriving DecidableEq, Repr

/-- The reference configuration of R11: `MSG_MAX_BYTES` = 256 (DESIGN CHOICE, notes/assumptions/2.md). -/
def Config.reference : Config := ⟨256, by decide, by decide, by decide⟩

/-- The capacity of OBUF in bytes: `MSG_MAX_BYTES + 4` (R11). -/
def Config.obufBytes (c : Config) : Nat := c.msgMaxBytes + 4

/-- `MAX_ROUNDS` (R10). -/
def Config.maxRounds : Nat := 16

/-- The spec revision of the command set, PARAM[31:24] (R3, R48). -/
def Config.revision : BitVec 8 := 0x01#8

/-- `SBOX_GEN` (R12, R202): a function from a 32-bit seed to a permutation of {0..15}, and nothing else is known of
it. The type says exactly the two things the source guarantees (DESIGN CHOICE in form, notes/assumptions/3.md). -/
opaque Config.sboxGen : Word → Equiv.Perm (Fin 16)

/-- The draws of one byte (R19, R47): the value an unknown buffer byte reads as, a fresh one at each number
(DESIGN CHOICE in form, notes/assumptions/4.md). -/
opaque Config.drawByte : Nat → Byte

/-- The draws of one word (R88): the value of a contested read while BUSY = 1, a fresh one at each number
(DESIGN CHOICE in form, notes/assumptions/4.md). -/
opaque Config.drawWord : Nat → Word

end Sys2Proof
end

