-- ==== Sys2Proof/Machine/State.lean ====
section
/-! DEFINITION. The state of the machine as plain data: the engine's record of 10_state.md R55 field by field, the host
agent that drives it (00_scope.md R15, 30_encoding.md R130), the order in which the agents move, and the count of draws
made so far. -/

namespace Sys2Proof.Machine

/-- The errors of 60_exceptions.md R330; their codes are `ErrKind.code` in Flags.lean. -/
inductive ErrKind where
  /-- `unpad` failed on the decrypted message, or DEC_MSG with MSG_LEN = 0. -/
  | invalidPadding
  /-- DEC_MSG with MSG_LEN not a multiple of 4. -/
  | malformedInput
  /-- The command word does not decode. -/
  | illegalCmd
  /-- SBOX_VALID = 0. -/
  | noSbox
  /-- KEY_VALID = 0. -/
  | noKey
  /-- ROUNDS = 0 or ROUNDS > 16. -/
  | badRounds
  /-- MSG_LEN > MSG_MAX_BYTES. -/
  | lenOverflow
  /-- The entries given to SBOX_LOAD are not pairwise distinct. -/
  | notPermutation
  deriving DecidableEq, Repr

/-- What the bus answers (20_memory.md R86): `ok v` or a bus error. A write is answered `ok 0`
(DESIGN CHOICE, notes/assumptions/9.md). -/
inductive Response where
  | ok (data : Word)
  | busErr
  deriving DecidableEq, Repr

/-- One access of the host (20_memory.md R80, R82): its width in bits, its 16-bit byte address, and the data of a write
(none for a read). Only width 32 at a multiple of 4 is legal; any other is answered by a bus error
(DEDUCED, notes/assumptions/22.md). -/
structure Access where
  width : Nat
  addr : BitVec 16
  write : Option Word
  deriving DecidableEq, Repr

/-- One statement of an assembled host script (30_encoding.md R130): the bus accesses WR and RD, the two conditional
jumps on a bit of `t`, and HALT. A label is a position of the script. -/
inductive HostOp where
  | access (a : Access)
  /-- JBS: jump if bit b of `t` is 1. -/
  | jbs (target : Nat) (b : Fin 32)
  /-- JBC: jump if bit b of `t` is 0. -/
  | jbc (target : Nat) (b : Fin 32)
  | halt
  deriving DecidableEq, Repr

/-- The host agent (00_scope.md R15): the script it runs, the position of its next statement, the last read value `t`
(30_encoding.md R130) and the last bus response. -/
structure HostAgent where
  script : List HostOp
  pos : Nat
  t : Word
  resp : Option Response
  deriving DecidableEq, Repr

/-- Which event comes next (00_scope.md R15, 70_reset_and_hazards.md R360, R361). -/
inductive Turn where
  /-- The host makes its next statement. -/
  | host
  /-- The engine's `Complete`, if it is enabled. -/
  | engine
  /-- One whole assertion of `rst_n`. -/
  | reset
  /-- The host makes its next statement while `rst_n = 0`: the engine holds the reset state and a bus access gets a bus
  error (R361; DEDUCED, notes/assumptions/10.md). -/
  | hostInReset
  deriving DecidableEq, Repr

/-- A byte buffer: the known bytes by index, in rising order (10_state.md R47). An index that is not listed is an unknown
byte (DESIGN CHOICE in form, notes/assumptions/21.md). -/
abbrev Memory := List Host.Cell

/-- The canonical form of a buffer: strictly rising indices. (An unlisted index reads as unknown, so no entry can equal
what an unlisted one reads as.) -/
abbrev Memory.wf (m : Memory) : Prop := m.Pairwise (fun x y => x.1 < y.1)

/-- The whole state. The engine's fields are those of 10_state.md R55 (`busy` is derived from `pend`, R36). -/
structure State where
  /-- The configuration: no step changes it (R55: a parameter, not state). -/
  cfg : Config
  /-- PEND (R33). -/
  pend : Option Word
  /-- STATUS.DONE (R36). -/
  done : Bool
  /-- STATUS.ERR (R36). -/
  err : Bool
  /-- STATUS.ERRCODE (R36). -/
  errCode : BitVec 4
  /-- KEY_VALID (R50). -/
  keyValid : Bool
  /-- SBOX_VALID (R52). -/
  sboxValid : Bool
  /-- STATUS.CMD_OVR (R36). -/
  cmdOvr : Bool
  /-- STATUS.WR_IGN (R36). -/
  wrIgn : Bool
  /-- LAST_CMD (R38). -/
  lastCmd : Word
  /-- ROUNDS[7:0] (R39). -/
  rounds : BitVec 8
  /-- LFSR (R40). -/
  lfsr : Word
  /-- DIN0 (R41). -/
  din0 : Word
  /-- DIN1 (R42). -/
  din1 : Word
  /-- DOUT (R43). -/
  dout : Word
  /-- MSG_LEN (R44). -/
  msgLen : Word
  /-- OUT_LEN (R45). -/
  outLen : Word
  /-- SKLOG[0..15], bits 15:0 (R46). -/
  sklog : Vector Half 16
  /-- IBUF (R47). -/
  ibuf : Memory
  /-- OBUF (R47). -/
  obuf : Memory
  /-- KEY (R49). -/
  key : Word
  /-- SBOX (R51). -/
  sbox : Table
  /-- INVSBOX (R51). -/
  invSbox : Table
  /-- The other agent (00_scope.md R15). -/
  host : HostAgent
  /-- The events still to come, in order; when none is left the engine moves while a command is pending and the host
  otherwise (70_reset_and_hazards.md R372; DESIGN CHOICE in form, notes/assumptions/5.md). -/
  sched : List Turn
  /-- How many draws have been made: the model's own counter, the argument of the opaque draws of Config.lean
(notes/assumptions/4.md). -/
  draws : Nat
  deriving DecidableEq, Repr

/-- A step of this machine never faults: the engine has no trap (60_exceptions.md R335), a host error is a bus response
(20_memory.md R86) and a command error is a status (R331). So the type has no constructor, which is safe: nothing the
spec describes is stopped (DEDUCED, notes/assumptions/11.md). -/
inductive Fault where
  deriving DecidableEq, Repr

/-- Why the model refuses a command. -/
inductive Refusal where
  /-- Raised only by an arm of `exec` for a command that has no meaning yet; no arm raises it. Safe: it stops. -/
  | notModelled (mnemonic : String)
  deriving DecidableEq, Repr

/-- The machine right after reset (10_state.md R56, 70_reset_and_hazards.md R360) in the reference configuration (00_scope.md
R11), with no host script and no event still to come. SBOX and INVSBOX, unspecified in the spec, are zero here (DESIGN
CHOICE, notes/assumptions/1.md), and so are the host's fields (DESIGN CHOICE, notes/assumptions/7.md). -/
def State.reset : State where
  cfg := Config.reference
  pend := none
  done := false
  err := false
  errCode := 0#4
  keyValid := false
  sboxValid := false
  cmdOvr := false
  wrIgn := false
  lastCmd := 0#32
  rounds := 4#8
  lfsr := 0#32
  din0 := 0#32
  din1 := 0#32
  dout := 0#32
  msgLen := 0#32
  outLen := 0#32
  sklog := Vector.replicate 16 0#16
  ibuf := []
  obuf := []
  key := 0#32
  sbox := Vector.replicate 16 0#4
  invSbox := Vector.replicate 16 0#4
  host := { script := [], pos := 0, t := 0#32, resp := none }
  sched := []
  draws := 0

end Sys2Proof.Machine
end

