-- ==== Sys2Proof/Machine/Operands.lean ====
section
/-! DEFINITION. Operand forms: which bits of a register, a command word or a table a rule reads, and how halves, bytes and
table halves are packed into words (00_scope.md R16, R17; 20_memory.md R83; 30_encoding.md R124 to R126;
43_sbox_permutation_rom.md R203). -/

namespace Sys2Proof.Machine

/-- The high half L of a block, bits 31:16 (R9). -/
def highHalf (b : Word) : Half := b.extractLsb' 16 16

/-- The low half R of a block, bits 15:0 (R9); also the 16-bit operand DIN0[15:0] (10_state.md R41). -/
def lowHalf (b : Word) : Half := b.extractLsb' 0 16

/-- `{L, R}` (R17). -/
def joinHalves (l r : Half) : Word := l ++ r

/-- `zext_32` of a 16-bit result (R17, 10_state.md R43). -/
def zext32 (h : Half) : Word := h.setWidth 32

/-- Nibble `j` of a 16-bit value, `x[4j+3 : 4j]` (R24). -/
def nibbleOfHalf (x : Half) (j : Nat) : Nibble := x.extractLsb' (4 * j) 4

/-- Nibble `j` of a word, `v[4j+3 : 4j]` (R203). -/
def nibbleOfWord (v : Word) (j : Nat) : Nibble := v.extractLsb' (4 * j) 4

/-- Entry `n` of a table. -/
def look (t : Table) (n : Nibble) : Nibble := t[n.toNat]'n.isLt

/-- The table SBOX_LOAD reads: entries 0..7 from DIN0 and 8..15 from DIN1 (R203, R211). -/
def unpackTable (lo hi : Word) : Table :=
  Vector.ofFn fun i : Fin 16 => if i.val < 8 then nibbleOfWord lo i.val else nibbleOfWord hi (i.val - 8)

/-- The half-table SBOX_RD gives: entry `8*half + j` in bits `4j+3 : 4j` (R203, R212). -/
def packHalf (t : Table) (half : Bool) : Word :=
  if half then
    t[15] ++ t[14] ++ t[13] ++ t[12] ++ t[11] ++ t[10] ++ t[9] ++ t[8]
  else
    t[7] ++ t[6] ++ t[5] ++ t[4] ++ t[3] ++ t[2] ++ t[1] ++ t[0]

/-- HALF = IMM[0] of SBOX_RD (R126). -/
def selHalf (imm : Half) : Bool := imm.getLsbD 0

/-- TAB = IMM[1] of SBOX_RD: 0 names SBOX, 1 names INVSBOX (R126). -/
def selTab (imm : Half) : Bool := imm.getLsbD 1

/-- The rotate amount of ROTL16: IMM read as a signed 16-bit integer (R125). -/
def rotateAmount (imm : Half) : Int := imm.toInt

/-- The subkey immediate of ROUNDF, ENC_ROUND and DEC_ROUND: IMM as it is (R124). -/
def subkeyImm (imm : Half) : Half := imm

/-- `{b0, b1, b2, b3}`: the big-endian word of four bytes (R83). -/
def wordOfBytes (b0 b1 b2 b3 : Byte) : Word := b0 ++ b1 ++ b2 ++ b3

/-- The four bytes of a word, bits 31:24 first (R83, R84). -/
def bytesOfWord (v : Word) : List Byte :=
  [v.extractLsb' 24 8, v.extractLsb' 16 8, v.extractLsb' 8 8, v.extractLsb' 0 8]

end Sys2Proof.Machine
end

