-- ==== Sys2Proof/Machine/Flags.lean ====
section
/-! DEFINITION. STATUS: its layout, its W1C bits, the error codes, and the checks a command makes before its body
(10_state.md R36, R37, R54; 60_exceptions.md R330, R332). The engine has no condition codes (R54). -/

namespace Sys2Proof.Machine

/-- ERRCODE of an error (R330). -/
def ErrKind.code : ErrKind → BitVec 4
  | .invalidPadding => 1#4
  | .malformedInput => 2#4
  | .illegalCmd => 3#4
  | .noSbox => 4#4
  | .noKey => 5#4
  | .badRounds => 6#4
  | .lenOverflow => 7#4
  | .notPermutation => 8#4

/-- BUSY: 1 exactly when PEND != none (R33, R36). -/
def State.busy (s : State) : Bool := s.pend.isSome

/-- One STATUS bit at position `i`. -/
def flagBit (b : Bool) (i : Nat) : Word := (BitVec.ofBool b).setWidth 32 <<< i

/-- STATUS as the host reads it (R36). -/
def statusWord (s : State) : Word :=
  flagBit s.busy 0 ||| flagBit s.done 1 ||| flagBit s.err 2 ||| flagBit s.keyValid 4 ||| flagBit s.sboxValid 5 |||
    (s.errCode.setWidth 32 <<< 8) ||| flagBit s.cmdOvr 16 ||| flagBit s.wrIgn 17

/-- A host write to STATUS: a written 1 clears CMD_OVR or WR_IGN, every other bit is ignored (R37). -/
def writeStatus (v : Word) (s : State) : State :=
  { s with cmdOvr := s.cmdOvr && !v.getLsbD 16, wrIgn := s.wrIgn && !v.getLsbD 17 }

/-- One check of a command: the condition it needs, and the error it raises where that fails. -/
abbrev Check := Bool × ErrKind

/-- NO_SBOX if SBOX_VALID = 0 (R52, R330). -/
def needSbox (s : State) : Check := (s.sboxValid, .noSbox)

/-- NO_KEY if KEY_VALID = 0 (R50, R330). -/
def needKey (s : State) : Check := (s.keyValid, .noKey)

/-- BAD_ROUNDS unless 1 <= ROUNDS <= MAX_ROUNDS (R39, R330). -/
def needRounds (s : State) : Check :=
  (decide (1 ≤ s.rounds.toNat) && decide (s.rounds.toNat ≤ Config.maxRounds), .badRounds)

/-- LEN_OVERFLOW if MSG_LEN > MSG_MAX_BYTES (R330). -/
def needFits (s : State) : Check := (decide (s.msgLen.toNat ≤ s.cfg.msgMaxBytes), .lenOverflow)

/-- MALFORMED_INPUT if MSG_LEN mod 4 != 0 (R330). -/
def needAligned (s : State) : Check := (decide (s.msgLen.toNat % 4 = 0), .malformedInput)

/-- Early INVALID_PADDING if MSG_LEN = 0 (R297, R332). -/
def needNonempty (s : State) : Check := (decide (s.msgLen.toNat ≠ 0), .invalidPadding)

/-- The first check of a list that fails: the one error a command reports (R332). -/
def firstFailing : List Check → Option ErrKind
  | [] => none
  | (passes, e) :: rest => if passes then firstFailing rest else some e

end Sys2Proof.Machine
end

