-- ==== Sys2Proof/Machine/Ops.lean ====
section
/-! DEFINITION. The shared operations: the byte buffers (00_scope.md R19, 20_memory.md R89), the draws, the issue and the
completion of a command (40_command_model.md R150, R151), the one way an error is taken (60_exceptions.md R331), reset
(70_reset_and_hazards.md R360), and the results a command writes. -/

namespace Sys2Proof.Machine

/-- The byte at an index of a buffer, or none where it is unknown (10_state.md R47). -/
def Memory.byte? : Memory → Nat → Option Byte
  | [], _ => none
  | (k, v) :: rest, a => if k = a then some v else Memory.byte? rest a

/-- Makes the byte at an index known, keeping the indices rising. -/
def Memory.write : Memory → Nat → Byte → Memory
  | [], a, b => [(a, b)]
  | (k, v) :: rest, a, b =>
    if a < k then (a, b) :: (k, v) :: rest
    else if a = k then (a, b) :: rest
    else (k, v) :: Memory.write rest a b

/-- `MemWrite(buf, a, n, bytes)` with n the number of bytes (R19). -/
def memWrite : Memory → Nat → List Byte → Memory
  | m, _, [] => m
  | m, a, b :: bs => memWrite (Memory.write m a b) (a + 1) bs

/-- One byte as it is read: its value, or the draw of number `d` where it is unknown (R19, R47). -/
def readByte (m : Memory) (a d : Nat) : Byte := (Memory.byte? m a).getD (Config.drawByte d)

/-- `MemRead(buf, a, n)`: byte `a + i`, where unknown, is the draw of number `d + i` (R19, R89). -/
def memRead (m : Memory) (a : Nat) : Nat → Nat → List Byte
  | 0, _ => []
  | n + 1, d => readByte m a d :: memRead m (a + 1) n (d + 1)

/-- Completion: PEND <- none, DONE <- 1 (R151). Without an error ERR and ERRCODE keep the values the issue gave them
(DEDUCED, notes/assumptions/15.md). -/
def finish (s : State) : State := { s with pend := none, done := true }

/-- Taking an error, the one shared operation for every error of a command: ERR <- 1, ERRCODE <- code(E), then the
completion. There is no trap: no PC, no mode and no vector exist (R331, R335). -/
def raise (e : ErrKind) (s : State) : State := finish { s with err := true, errCode := e.code }

/-- The issue of a command word (R150), which is also the return from an error: it clears DONE, ERR and ERRCODE (R337). -/
def issue (w : Word) (s : State) : State :=
  { s with pend := some w, lastCmd := w, done := false, err := false, errCode := 0#4 }

/-- The engine's part of a completion with its checks: the first check that fails is raised and the body is skipped,
otherwise the body runs (R151, R332). -/
def command (s : State) (checks : List Check) (body : State → State) :
    Host.Outcome State Fault Refusal :=
  match firstFailing checks with
  | some e => .next (raise e s)
  | none => .next (finish (body s))

/-- DOUT <- v (10_state.md R43). -/
def setDout (v : Word) (s : State) : State := { s with dout := v }

/-- SKLOG[i] <- (i < r) ? sk[i] : 0, where `sk` holds the r subkeys in generation order (10_state.md R46). -/
def logSubkeys (sk : List Half) : Vector Half 16 := Vector.ofFn fun i : Fin 16 => sk.getD i.val 0#16

/-- Writes both tables together and sets SBOX_VALID (10_state.md R51, R52). -/
def setTables (t inv : Table) (s : State) : State := { s with sbox := t, invSbox := inv, sboxValid := true }

/-- Reset of the engine (R360, R56): every field of the engine takes its reset value. The configuration, the host, events to come and the count of draws are no fields of the engine (DESIGN CHOICE, notes/assumptions/7.md). -/
def resetEngine (s : State) : State :=
  { State.reset with cfg := s.cfg, host := s.host, sched := s.sched, draws := s.draws }

end Sys2Proof.Machine
end

