-- ==== Sys2Proof/Machine/BitOps.lean ====
section
/-! DEFINITION. BitOps (41_bitops.md): the 16-bit rotate and ROTL16. -/

namespace Sys2Proof.Machine

/-- `rotl16(x, n)` for any integer n (R170). -/
def rotl16 (x : Half) (n : Int) : Half :=
  let s := (n % 16).toNat
  if s = 0 then x else (x <<< s) ||| (x >>> (16 - s))

/-- ROTL16 (R171). -/
def execRotl16 (imm : Half) (s : State) : Host.Outcome State Fault Refusal :=
  command s [] fun s => setDout (zext32 (rotl16 (lowHalf s.din0) (rotateAmount imm))) s

end Sys2Proof.Machine
end

