-- ==== Sys2Proof/Machine/Lfsr.lean ====
section
/-! DEFINITION. lfsr_keystream_gen (42_lfsr_keystream_gen.md): one LFSR step, the subkey schedule, and LFSR_STEP. -/

namespace Sys2Proof.Machine

/-- The feedback bit: the XOR of the taps 0, 1, 21 and 31 (R180). -/
def feedback (s : Word) : Bool := s.getLsbD 0 ^^ s.getLsbD 1 ^^ s.getLsbD 21 ^^ s.getLsbD 31

/-- `lfsr_step(s)`: (newState, outputWord), which are equal (R180). -/
def lfsrStep (s : Word) : Word × Word :=
  let ns := (s >>> 1) ||| ((BitVec.ofBool (feedback s)).setWidth 32 <<< 31)
  (ns, ns)

/-- `subkeys(s, r)`: the r subkeys in generation order and the advanced state (R181). -/
def subkeys : Word → Nat → List Half × Word
  | s, 0 => ([], s)
  | s, r + 1 =>
    let (ns, out) := lfsrStep s
    let (sk, s') := subkeys ns r
    (lowHalf out :: sk, s')

/-- The body of LFSR_STEP (R184). -/
def lfsrStepBody (s : State) : State :=
  { setDout (lfsrStep s.lfsr).2 s with lfsr := (lfsrStep s.lfsr).1 }

/-- LFSR_STEP (R184). -/
def execLfsrStep (s : State) : Host.Outcome State Fault Refusal := command s [] lfsrStepBody

end Sys2Proof.Machine
end

