-- ==== Sys2Proof/Machine/Pbox.lean ====
section
/-! DEFINITION. pbox_bit_permute (44_pbox_bit_permute.md): the fixed bit permutation, its inverse, PERM and IPERM. -/

namespace Sys2Proof.Machine

/-- `for i = 0 .. 15: y[dst i] <- x[i]`, from y = 0 (R230, R231): bit i of the input moves to position `dst i`. -/
def moveBits (dst : Nat → Nat) (x : Half) : Half :=
  (List.range 16).foldl (fun y i => y ||| ((BitVec.ofBool (x.getLsbD i)).setWidth 16 <<< dst i)) 0#16

/-- `permute(x)`: bit i moves to position `(3*i) mod 16` (R230). -/
def permute (x : Half) : Half := moveBits (fun i => (3 * i) % 16) x

/-- INV, the source's table read as a destination map (R231, 90_conflicts.md C3). -/
def invPositions : List Nat := [0, 11, 6, 1, 12, 7, 2, 13, 8, 3, 14, 9, 4, 15, 10, 5]

/-- `inverse_permute(y)`: bit i moves to position `INV[i]` (R231). -/
def inversePermute (y : Half) : Half := moveBits (fun i => invPositions.getD i 0) y

/-- PERM (R235). -/
def execPerm (s : State) : Host.Outcome State Fault Refusal :=
  command s [] fun s => setDout (zext32 (permute (lowHalf s.din0))) s

/-- IPERM (R236). -/
def execIperm (s : State) : Host.Outcome State Fault Refusal :=
  command s [] fun s => setDout (zext32 (inversePermute (lowHalf s.din0))) s

end Sys2Proof.Machine
end

