-- ==== Sys2Proof/Machine/Sbox.lean ====
section
/-! DEFINITION. sbox_permutation_rom (43_sbox_permutation_rom.md): the table functions and KEY_LOAD, SBOX_LOAD, SBOX_RD,
SUBST and ISUBST. -/

namespace Sys2Proof.Machine

/-- `substitute(x, T)`: every nibble mapped in place (R200). -/
def substitute (x : Half) (t : Table) : Half :=
  look t (nibbleOfHalf x 3) ++ look t (nibbleOfHalf x 2) ++ look t (nibbleOfHalf x 1) ++ look t (nibbleOfHalf x 0)

/-- `is_perm(T)`: the 16 entries are pairwise distinct (R201). -/
def isPerm (t : Table) : Bool := decide t.toList.Nodup

/-- The first index at which a list of entries holds `v`; its length where none does. -/
def indexOf (v : Nibble) : List Nibble → Nat
  | [] => 0
  | e :: rest => if e = v then 0 else indexOf v rest + 1

/-- `inverse_table(T)`: the table I with `I[T[i]] = i` (R201); on a table that is no permutation, which is
never loaded, DESIGN CHOICE (notes/assumptions/20.md). -/
def inverseTable (t : Table) : Table :=
  Vector.ofFn fun v : Fin 16 => BitVec.ofNat 4 (indexOf (BitVec.ofFin v) t.toList)

/-- `SBOX_GEN(seed)` as a table (00_scope.md R12, R202). -/
def sboxGen (seed : Word) : Table := Vector.ofFn fun i : Fin 16 => BitVec.ofFin (Config.sboxGen seed i)

/-- The body of KEY_LOAD (R210). -/
def keyLoadBody (s : State) : State :=
  { setTables (sboxGen s.din0) (inverseTable (sboxGen s.din0)) s with key := s.din0, keyValid := true }

/-- KEY_LOAD (R210): every key is legal. -/
def execKeyLoad (s : State) : Host.Outcome State Fault Refusal := command s [] keyLoadBody

/-- The table SBOX_LOAD reads from DIN0 and DIN1 (R211). -/
def hostTable (s : State) : Table := unpackTable s.din0 s.din1

/-- The body of SBOX_LOAD after its check (R211). -/
def sboxLoadBody (s : State) : State := setTables (hostTable s) (inverseTable (hostTable s)) s

/-- SBOX_LOAD (R211): NOT_PERMUTATION if the table is no permutation. -/
def execSboxLoad (s : State) : Host.Outcome State Fault Refusal :=
  command s [(isPerm (hostTable s), .notPermutation)] sboxLoadBody

/-- The table SBOX_RD names: SBOX or INVSBOX (R212). -/
def tableNamed (imm : Half) (s : State) : Table := if selTab imm then s.invSbox else s.sbox

/-- SBOX_RD (R212). -/
def execSboxRd (imm : Half) (s : State) : Host.Outcome State Fault Refusal :=
  command s [needSbox s] fun s => setDout (packHalf (tableNamed imm s) (selHalf imm)) s

/-- SUBST (R213). -/
def execSubst (s : State) : Host.Outcome State Fault Refusal :=
  command s [needSbox s] fun s => setDout (zext32 (substitute (lowHalf s.din0) s.sbox)) s

/-- ISUBST (R214). -/
def execIsubst (s : State) : Host.Outcome State Fault Refusal :=
  command s [needSbox s] fun s => setDout (zext32 (substitute (lowHalf s.din0) s.invSbox)) s

end Sys2Proof.Machine
end

