-- ==== Sys2Proof/Machine/Round.lean ====
section
/-! DEFINITION. The round function and single Feistel rounds (45_feistel_round_engine.md): ROUNDF, ENC_ROUND, DEC_ROUND. -/

namespace Sys2Proof.Machine

/-- `F(x, k) = permute(substitute(x, SBOX)) ^ k`, in this order (R250). -/
def roundF (t : Table) (x k : Half) : Half := permute (substitute x t) ^^^ k

/-- `enc_round(b, k)`: (L, R) := (R, L XOR F(R, k)) (R251). -/
def encRound (t : Table) (b : Word) (k : Half) : Word :=
  joinHalves (lowHalf b) (highHalf b ^^^ roundF t (lowHalf b) k)

/-- `dec_round(b, k)`: (L, R) := (R XOR F(L, k), L) (R252). -/
def decRound (t : Table) (b : Word) (k : Half) : Word :=
  joinHalves (lowHalf b ^^^ roundF t (highHalf b) k) (highHalf b)

/-- ROUNDF (R255). -/
def execRoundf (imm : Half) (s : State) : Host.Outcome State Fault Refusal :=
  command s [needSbox s] fun s => setDout (zext32 (roundF s.sbox (lowHalf s.din0) (subkeyImm imm))) s

/-- ENC_ROUND (R256). -/
def execEncRound (imm : Half) (s : State) : Host.Outcome State Fault Refusal :=
  command s [needSbox s] fun s => setDout (encRound s.sbox s.din0 (subkeyImm imm)) s

/-- DEC_ROUND (R257). -/
def execDecRound (imm : Half) (s : State) : Host.Outcome State Fault Refusal :=
  command s [needSbox s] fun s => setDout (decRound s.sbox s.din0 (subkeyImm imm)) s

end Sys2Proof.Machine
end

