-- ==== Sys2Proof/Machine/Block.lean ====
section
/-! DEFINITION. feistel_encrypt_4round and feistel_decrypt_4round (46_feistel_block.md): the block cipher, ENC_BLK and
DEC_BLK. -/

namespace Sys2Proof.Machine

/-- `encrypt_block(b, s, r)` = (block, final state, subkeys) (R270). -/
def encryptBlock (t : Table) (b s : Word) (r : Nat) : Word × Word × List Half :=
  let (sk, s') := subkeys s r
  (sk.foldl (encRound t) b, s', sk)

/-- `decrypt_block(b, s, r)` = (block, final state, subkeys): the same subkeys, used in reverse order (R271). -/
def decryptBlock (t : Table) (b s : Word) (r : Nat) : Word × Word × List Half :=
  let (sk, s') := subkeys s r
  (sk.reverse.foldl (decRound t) b, s', sk)

/-- Writes the result of a block command: DOUT, LFSR and SKLOG (R275, R276). -/
def setBlock (res : Word × Word × List Half) (s : State) : State :=
  { s with dout := res.1, lfsr := res.2.1, sklog := logSubkeys res.2.2 }

/-- ENC_BLK (R275). -/
def execEncBlk (s : State) : Host.Outcome State Fault Refusal :=
  command s [needSbox s, needRounds s] fun s => setBlock (encryptBlock s.sbox s.din0 s.lfsr s.rounds.toNat) s

/-- DEC_BLK (R276). -/
def execDecBlk (s : State) : Host.Outcome State Fault Refusal :=
  command s [needSbox s, needRounds s] fun s => setBlock (decryptBlock s.sbox s.din0 s.lfsr s.rounds.toNat) s

end Sys2Proof.Machine
end

