-- ==== Sys2Proof/Machine/Chaining.lean ====
section
/-! DEFINITION. block_chaining_fsm (47_block_chaining_fsm.md): padding, block conversion, message encryption and decryption,
ENC_MSG and DEC_MSG. -/

namespace Sys2Proof.Machine

/-- `pad(d)`: n bytes of value n, n = 4 - (len mod 4) (R290). -/
def pad (d : List Byte) : List Byte :=
  let n := 4 - d.length % 4
  d ++ List.replicate n (BitVec.ofNat 8 n)

/-- `unpad(d)`: the bytes without their padding, or none for INVALID_PADDING (R291). -/
def unpad (d : List Byte) : Option (List Byte) :=
  match d.getLast? with
  | none => none
  | some last =>
    let n := last.toNat
    if n < 1 ∨ 4 < n then none
    else if d.length < n then none
    else if (d.drop (d.length - n)).all (· == last) then some (d.take (d.length - n))
    else none

/-- `to_blocks(d)`: big-endian words of four bytes (R292). A last group of fewer than four bytes cannot occur: the callers
give lengths that are multiples of 4 (DESIGN CHOICE, notes/assumptions/19.md). -/
def toBlocks : List Byte → List Word
  | b0 :: b1 :: b2 :: b3 :: rest => wordOfBytes b0 b1 b2 b3 :: toBlocks rest
  | [] => []
  | [_] => []
  | [_, _] => []
  | [_, _, _] => []

/-- `to_bytes(blk)`: four big-endian bytes for each block, in order (R293). -/
def toBytes (blk : List Word) : List Byte := blk.flatMap bytesOfWord

/-- Processes blocks in order with a block function, the state that leaves block i entering block i+1; answers the
blocks, the last state, and the subkeys of the last block (R294, R295). -/
def chain (f : Word → Word → Word × Word × List Half) :
    List Word → Word → List Half → List Word × Word × List Half
  | [], s, sk => ([], s, sk)
  | b :: bs, s, _ =>
    let (c, s', sk') := f b s
    let (cs, s'', sk'') := chain f bs s' sk'
    (c :: cs, s'', sk'')

/-- `encrypt_message(m, key, r)` (R294). -/
def encryptMessage (t : Table) (m : List Byte) (key : Word) (r : Nat) : List Byte × Word × List Half :=
  let (c, s, sk) := chain (fun b s => encryptBlock t b s r) (toBlocks (pad m)) key []
  (toBytes c, s, sk)

/-- `decrypt_message(c, key, r)` = (q, unpad(q), s, sk) (R295). R295 defines it for `len(c) > 0`; for the empty `c`, which no
command gives it, the answer is ([], none, key, []) (DESIGN CHOICE, notes/assumptions/25.md). -/
def decryptMessage (t : Table) (c : List Byte) (key : Word) (r : Nat) :
    List Byte × Option (List Byte) × Word × List Half :=
  let (p, s, sk) := chain (fun b s => decryptBlock t b s r) (toBlocks c) key []
  (toBytes p, unpad (toBytes p), s, sk)

/-- The message a command reads: `MemRead(IBUF, 0, MSG_LEN)` (20_memory.md R89). -/
def messageIn (s : State) : List Byte := memRead s.ibuf 0 s.msgLen.toNat s.draws

/-- Writes the result of a message command: OBUF from 0, LFSR, SKLOG and OUT_LEN, and counts the draws of `messageIn`
(R296, R297). -/
def setMessage (out : List Byte) (outLen : Nat) (lfsr : Word) (sk : List Half) (s : State) : State :=
  { s with
    obuf := memWrite s.obuf 0 out
    outLen := BitVec.ofNat 32 outLen
    lfsr := lfsr
    sklog := logSubkeys sk
    draws := s.draws + s.msgLen.toNat }

/-- The checks of ENC_MSG, in order (R296). -/
def encMsgChecks (s : State) : List Check := [needSbox s, needKey s, needRounds s, needFits s]

/-- The body of ENC_MSG (R296). -/
def encMsgBody (s : State) : State :=
  let (c, lfsr, sk) := encryptMessage s.sbox (messageIn s) s.key s.rounds.toNat
  setMessage c c.length lfsr sk s

/-- ENC_MSG (R296). -/
def execEncMsg (s : State) : Host.Outcome State Fault Refusal := command s (encMsgChecks s) encMsgBody

/-- The early checks of DEC_MSG, in order (R297). -/
def decMsgChecks (s : State) : List Check :=
  [needSbox s, needKey s, needRounds s, needFits s, needAligned s, needNonempty s]

/-- DEC_MSG (R297): the early checks; then the decrypted, still padded bytes, LFSR and SKLOG are written, and a failing
`unpad` raises INVALID_PADDING late, with OUT_LEN = 0 and those writes kept. -/
def execDecMsg (s : State) : Host.Outcome State Fault Refusal :=
  match firstFailing (decMsgChecks s) with
  | some e => .next (raise e s)
  | none =>
    let (q, u, lfsr, sk) := decryptMessage s.sbox (messageIn s) s.key s.rounds.toNat
    match u with
    | some plain => .next (finish (setMessage q plain.length lfsr sk s))
    | none => .next (raise .invalidPadding (setMessage q 0 lfsr sk s))

end Sys2Proof.Machine
end

