-- ==== Sys2Proof/Machine/Control.lean ====
section
/-! DEFINITION. NOP (40_command_model.md R155). -/

namespace Sys2Proof.Machine

/-- NOP: no check, and a body that does nothing (R155). -/
def execNop (s : State) : Host.Outcome State Fault Refusal := command s [] id

end Sys2Proof.Machine
end

