-- ==== Sys2Proof/Machine/Dispatch.lean ====
section
/-! DEFINITION. The completion of a decoded command (40_command_model.md R151): one arm per command, each one call of its
meaning, which makes the command's checks, performs its body and completes it. -/

namespace Sys2Proof.Machine

def exec (i : Instr) (s : State) : Host.Outcome State Fault Refusal :=
  match i with
  | .nop => Sys2Proof.Machine.execNop s
  | .keyLoad => Sys2Proof.Machine.execKeyLoad s
  | .sboxLoad => Sys2Proof.Machine.execSboxLoad s
  | .sboxRd imm => Sys2Proof.Machine.execSboxRd imm s
  | .rotl16 imm => Sys2Proof.Machine.execRotl16 imm s
  | .lfsrStep => Sys2Proof.Machine.execLfsrStep s
  | .subst => Sys2Proof.Machine.execSubst s
  | .isubst => Sys2Proof.Machine.execIsubst s
  | .perm => Sys2Proof.Machine.execPerm s
  | .iperm => Sys2Proof.Machine.execIperm s
  | .roundf imm => Sys2Proof.Machine.execRoundf imm s
  | .encRound imm => Sys2Proof.Machine.execEncRound imm s
  | .decRound imm => Sys2Proof.Machine.execDecRound imm s
  | .encBlk => Sys2Proof.Machine.execEncBlk s
  | .decBlk => Sys2Proof.Machine.execDecBlk s
  | .encMsg => Sys2Proof.Machine.execEncMsg s
  | .decMsg => Sys2Proof.Machine.execDecMsg s

end Sys2Proof.Machine
end

