-- ==== Sys2Proof/Machine/Bus.lean ====
section
/-! DEFINITION. Host bus accesses (20_memory.md R80 to R91): the address map, the dispatch of one access in the order of
R86, and what each register reads as and stores (10_state.md R34 to R48). -/

namespace Sys2Proof.Machine

/-- What a mapped address names (R34, R81). A window carries the byte offset from its start. -/
inductive Target where
  | cmd
  | status
  | lastCmd
  | rounds
  | lfsr
  | din0
  | din1
  | dout
  | msgLen
  | outLen
  | param
  | sklog (i : Fin 16)
  | ibuf (off : Nat)
  | obuf (off : Nat)
  deriving DecidableEq, Repr

/-- The registers of the register block, by byte address (R34). -/
def registerAt (a : Nat) : Option Target :=
  match a with
  | 0x0000 => some .cmd
  | 0x0004 => some .status
  | 0x0008 => some .lastCmd
  | 0x000C => some .rounds
  | 0x0010 => some .lfsr
  | 0x0014 => some .din0
  | 0x0018 => some .din1
  | 0x001C => some .dout
  | 0x0020 => some .msgLen
  | 0x0024 => some .outLen
  | 0x0028 => some .param
  | _ => none

/-- The address map (R81) at a multiple of 4; none where nothing is mapped. A word of a window lies whole inside
it (DESIGN CHOICE, notes/assumptions/23.md). -/
def targetAt (cfg : Config) (a : Nat) : Option Target :=
  if a < 0x40 then registerAt a
  else if a < 0x80 then some (.sklog (Fin.ofNat 16 ((a - 0x40) / 4)))
  else if 0x4000 ≤ a ∧ a < 0x4000 + cfg.msgMaxBytes then some (.ibuf (a - 0x4000))
  else if 0x8000 ≤ a ∧ a < 0x8000 + cfg.obufBytes then some (.obuf (a - 0x8000))
  else none

/-- The targets whose write gets a bus error (R86 item 3). -/
def Target.readOnly : Target → Bool
  | .cmd => false
  | .status => false
  | .lastCmd => true
  | .rounds => false
  | .lfsr => false
  | .din0 => false
  | .din1 => false
  | .dout => true
  | .msgLen => false
  | .outLen => true
  | .param => true
  | .sklog _ => true
  | .ibuf _ => false
  | .obuf _ => true

/-- The targets whose read while BUSY = 1 is a draw (R88). -/
def Target.contested : Target → Bool
  | .cmd => false
  | .status => false
  | .lastCmd => false
  | .rounds => false
  | .lfsr => true
  | .din0 => false
  | .din1 => false
  | .dout => true
  | .msgLen => false
  | .outLen => true
  | .param => false
  | .sklog _ => true
  | .ibuf _ => false
  | .obuf _ => true

/-- PARAM: the revision, MAX_ROUNDS and MSG_MAX_BYTES (10_state.md R48). -/
def paramWord (cfg : Config) : Word :=
  Config.revision ++ BitVec.ofNat 8 Config.maxRounds ++ BitVec.ofNat 16 cfg.msgMaxBytes

/-- The word of a window at a byte offset, its unknown bytes the draws of numbers `d` to `d + 3` (R83, R85). -/
def windowWord (m : Memory) (off d : Nat) : Word :=
  wordOfBytes (readByte m off d) (readByte m (off + 1) (d + 1)) (readByte m (off + 2) (d + 2))
    (readByte m (off + 3) (d + 3))

/-- The value a target reads as where the read is defined (R86 item 8; 10_state.md R35 to R48). -/
def targetValue (t : Target) (s : State) : Word :=
  match t with
  | .cmd => 0#32
  | .status => statusWord s
  | .lastCmd => s.lastCmd
  | .rounds => s.rounds.setWidth 32
  | .lfsr => s.lfsr
  | .din0 => s.din0
  | .din1 => s.din1
  | .dout => s.dout
  | .msgLen => s.msgLen
  | .outLen => s.outLen
  | .param => paramWord s.cfg
  | .sklog i => zext32 s.sklog[i]
  | .ibuf off => windowWord s.ibuf off s.draws
  | .obuf off => windowWord s.obuf off s.draws

/-- How many draws a defined read uses: one for each byte of a window, none elsewhere. -/
def Target.drawsUsed : Target → Nat
  | .cmd => 0
  | .status => 0
  | .lastCmd => 0
  | .rounds => 0
  | .lfsr => 0
  | .din0 => 0
  | .din1 => 0
  | .dout => 0
  | .msgLen => 0
  | .outLen => 0
  | .param => 0
  | .sklog _ => 0
  | .ibuf _ => 4
  | .obuf _ => 4

/-- A host read of a mapped target (R86 item 8, R88). It changes nothing but the model's count of draws (R91). -/
def busRead (t : Target) (s : State) : Response × State :=
  if s.busy && t.contested then (.ok (Config.drawWord s.draws), { s with draws := s.draws + 1 })
  else (.ok (targetValue t s), { s with draws := s.draws + t.drawsUsed })

/-- A CMD write: an issue while PEND = none (R150), else dropped with CMD_OVR <- 1 (R152). -/
def writeCmd (w : Word) (s : State) : State := if s.busy then { s with cmdOvr := true } else issue w s

/-- What a writable data target stores while BUSY = 0 (R84, R86 item 7; 10_state.md R39 to R44). CMD, STATUS and the
read-only targets are decided before this (R86 items 3 to 5). -/
def storeTarget (t : Target) (v : Word) (s : State) : State :=
  match t with
  | .cmd => s
  | .status => s
  | .lastCmd => s
  | .rounds => { s with rounds := v.setWidth 8 }
  | .lfsr => { s with lfsr := v }
  | .din0 => { s with din0 := v }
  | .din1 => { s with din1 := v }
  | .dout => s
  | .msgLen => { s with msgLen := v }
  | .outLen => s
  | .param => s
  | .sklog _ => s
  | .ibuf off => { s with ibuf := memWrite s.ibuf off (bytesOfWord v) }
  | .obuf _ => s

/-- A data write: dropped with WR_IGN <- 1 while BUSY = 1 (R87), else stored. -/
def writeData (t : Target) (v : Word) (s : State) : State :=
  if s.busy then { s with wrIgn := true } else storeTarget t v s

/-- A host write to a mapped target (R86 items 3 to 7). -/
def busWrite (t : Target) (v : Word) (s : State) : Response × State :=
  if t.readOnly then (.busErr, s)
  else if t = .cmd then (.ok 0#32, writeCmd v s)
  else if t = .status then (.ok 0#32, writeStatus v s)
  else (.ok 0#32, writeData t v s)

/-- One host access, its checks in the order of R86. -/
def busAccess (a : Access) (s : State) : Response × State :=
  if a.width ≠ 32 ∨ a.addr.toNat % 4 ≠ 0 then (.busErr, s)
  else
    match targetAt s.cfg a.addr.toNat with
    | none => (.busErr, s)
    | some t =>
      match a.write with
      | some v => busWrite t v s
      | none => busRead t s

/-- One host access while `rst_n = 0`: a bus error (70_reset_and_hazards.md R361). -/
def busInReset (_ : Access) (s : State) : Response × State := (.busErr, s)

/-- The data of a response: 0 with a bus error (R86). -/
def Response.data : Response → Word
  | .ok v => v
  | .busErr => 0#32

end Sys2Proof.Machine
end

