-- ==== Sys2Proof/Machine/Script.lean ====
section
/-! DEFINITION. The host agent (00_scope.md R15) and its scripts (30_encoding.md R129 to R132): one statement of an assembled
script, and the assembler from script lines, with the pseudo-instructions WAIT, RUN and RUNCHK, to statements. -/

namespace Sys2Proof.Machine

/-- The host after an access: the response is kept, a read's data becomes `t`, and the script goes on (R130). -/
def recordAccess (a : Access) (r : Response) (h : HostAgent) : HostAgent :=
  { h with pos := h.pos + 1, resp := some r, t := if a.write.isNone then r.data else h.t }

/-- Where a conditional jump goes (R130). -/
def jumpTo (taken : Bool) (target : Nat) (h : HostAgent) : HostAgent :=
  { h with pos := if taken then target else h.pos + 1 }

/-- The host's next statement (R130), its access answered by `bus`. HALT, or the end of the script, leaves the host where
it is (DEDUCED, notes/assumptions/8.md). -/
def hostStep (bus : Access → State → Response × State) (s : State) : State :=
  match s.host.script[s.host.pos]? with
  | none => s
  | some .halt => s
  | some (.jbs target b) => { s with host := jumpTo (s.host.t.getLsbD b) target s.host }
  | some (.jbc target b) => { s with host := jumpTo (!s.host.t.getLsbD b) target s.host }
  | some (.access a) => { (bus a s).2 with host := recordAccess a (bus a s).1 s.host }

/-- A command mnemonic line (R129): a mnemonic and its operand. -/
structure CmdText where
  mnemonic : String
  operand : Option Int
  deriving DecidableEq, Repr

/-- A location of WR and RD (R130): a register name of R34, `IBUF+off`, `OBUF+off`, or a numeric address. -/
inductive Loc where
  | reg (name : String)
  | sklog (i : Fin 16)
  | ibuf (off : Nat)
  | obuf (off : Nat)
  | num (a : BitVec 16)
  deriving DecidableEq, Repr

/-- One line of a script (R130 to R132). -/
inductive Line where
  | wr (l : Loc) (v : Word)
  | rd (l : Loc)
  | label (n : String)
  | jbs (n : String) (b : Fin 32)
  | jbc (n : String) (b : Fin 32)
  | halt
  | cmd (c : CmdText)
  | wait
  | run (c : CmdText)
  | runchk (c : CmdText) (n : String)
  deriving DecidableEq, Repr

/-- The four aliases of SBOX_RD (R129), each written without an operand. An alias with an operand is no form of R129: it is
left as it is, which no row of the opcode map is called, so the line does not assemble (DESIGN CHOICE,
notes/assumptions/24.md). -/
def expandAlias (c : CmdText) : CmdText :=
  match c.operand with
  | some _ => c
  | none =>
    if c.mnemonic = "SBOX_RD.LO" then ⟨"SBOX_RD", some 0⟩
    else if c.mnemonic = "SBOX_RD.HI" then ⟨"SBOX_RD", some 1⟩
    else if c.mnemonic = "SBOX_RD.ILO" then ⟨"SBOX_RD", some 2⟩
    else if c.mnemonic = "SBOX_RD.IHI" then ⟨"SBOX_RD", some 3⟩
    else c

/-- The range of an operand (R129): [0, 3] for format S, [-32768, 65535] for ROTL16, [0, 65535] for the subkeys. -/
def operandInRange (r : Row) (v : Int) : Bool :=
  match r.format with
  | .z => false
  | .s => decide (0 ≤ v ∧ v ≤ 3)
  | .i => if r.mnemonic = "ROTL16" then decide (-32768 ≤ v ∧ v ≤ 65535) else decide (0 ≤ v ∧ v ≤ 65535)

/-- The word of a command line, a negative operand as its 16-bit two's complement (R129); none where the line is not a
command of the table with an operand of its range. -/
def assembleCmd (c : CmdText) : Option Word :=
  let e := expandAlias c
  match opcodeMap.find? (fun r => r.mnemonic == e.mnemonic) with
  | none => none
  | some r =>
    match e.operand with
    | none => if r.format = .z then some (assembleWord r.opc 0#16) else none
    | some v => if operandInRange r v then some (assembleWord r.opc (BitVec.ofInt 16 v)) else none

/-- The address of a location (R130, R34, R81). -/
def addrOf : Loc → Option (BitVec 16)
  | .reg name =>
    if name = "CMD" then some 0x0000#16
    else if name = "STATUS" then some 0x0004#16
    else if name = "LAST_CMD" then some 0x0008#16
    else if name = "ROUNDS" then some 0x000C#16
    else if name = "LFSR" then some 0x0010#16
    else if name = "DIN0" then some 0x0014#16
    else if name = "DIN1" then some 0x0018#16
    else if name = "DOUT" then some 0x001C#16
    else if name = "MSG_LEN" then some 0x0020#16
    else if name = "OUT_LEN" then some 0x0024#16
    else if name = "PARAM" then some 0x0028#16
    else none
  | .sklog i => some (BitVec.ofNat 16 (0x0040 + 4 * i.val))
  | .ibuf off => some (BitVec.ofNat 16 (0x4000 + off))
  | .obuf off => some (BitVec.ofNat 16 (0x8000 + off))
  | .num a => some a

/-- How many statements a line assembles to (R130 to R132). -/
def lineSize : Line → Nat
  | .wr _ _ => 1
  | .rd _ => 1
  | .label _ => 0
  | .jbs _ _ => 1
  | .jbc _ _ => 1
  | .halt => 1
  | .cmd _ => 1
  | .wait => 2
  | .run _ => 3
  | .runchk _ _ => 4

/-- The position a label names: that of the next statement (R130), counting from `at_`. -/
def labelPos (n : String) : List Line → Nat → Option Nat
  | [], _ => none
  | l :: rest, at_ => if l = .label n then some at_ else labelPos n rest (at_ + lineSize l)

/-- `RD STATUS` (R131). -/
def readStatusOp : HostOp := .access ⟨32, 0x0004#16, none⟩

/-- `WR CMD, w` (R130). -/
def writeCmdOp (w : Word) : HostOp := .access ⟨32, 0x0000#16, some w⟩

/-- WAIT at a position: read STATUS, and loop while bit 0, BUSY, is 1 (R131). -/
def waitOps (at_ : Nat) : List HostOp := [readStatusOp, .jbs at_ 0]

/-- The statements of one line at a position (R130 to R132). -/
def assembleLine (all : List Line) (at_ : Nat) : Line → Option (List HostOp)
  | .wr l v => (addrOf l).map fun a => [.access ⟨32, a, some v⟩]
  | .rd l => (addrOf l).map fun a => [.access ⟨32, a, none⟩]
  | .label _ => some []
  | .jbs n b => (labelPos n all 0).map fun p => [.jbs p b]
  | .jbc n b => (labelPos n all 0).map fun p => [.jbc p b]
  | .halt => some [.halt]
  | .cmd c => (assembleCmd c).map fun w => [writeCmdOp w]
  | .wait => some (waitOps at_)
  | .run c => (assembleCmd c).map fun w => writeCmdOp w :: waitOps (at_ + 1)
  | .runchk c n =>
    match assembleCmd c, labelPos n all 0 with
    | some w, some p => some (writeCmdOp w :: (waitOps (at_ + 1) ++ [.jbs p 2]))
    | _, _ => none

/-- The statements of the lines from a position on. -/
def assembleFrom (all : List Line) : List Line → Nat → Option (List HostOp)
  | [], _ => some []
  | l :: rest, at_ =>
    match assembleLine all at_ l, assembleFrom all rest (at_ + lineSize l) with
    | some ops, some more => some (ops ++ more)
    | _, _ => none

/-- A script, assembled (R130 to R132); none where a name, a label or an operand is not legal (DESIGN CHOICE,
notes/assumptions/8.md; the text of a line is not parsed, notes/assumptions/16.md). -/
def assemble (lines : List Line) : Option (List HostOp) := assembleFrom lines lines 0

end Sys2Proof.Machine
end

