-- ==== Sys2Proof/Machine/Agents.lean ====
section
/-! DEFINITION. The agents' moves (00_scope.md R15): the engine's `Complete` (40_command_model.md R151), the host's next
statement, and reset (70_reset_and_hazards.md R360, R361). -/

namespace Sys2Proof.Machine

/-- `Complete` (R151): enabled exactly when PEND = some w. The word is decoded now; an illegal one raises ILLEGAL_CMD.
With nothing pending the engine has no step, and nothing changes (DESIGN CHOICE, notes/assumptions/14.md). -/
def complete (s : State) : Host.Outcome State Fault Refusal :=
  match s.pend with
  | none => .next s
  | some w =>
    match decode w with
    | .error _ => .next (raise .illegalCmd s)
    | .ok i => exec i s

/-- Which event comes next: the first of the schedule; with none left, the engine's step while a command is pending
(the weak fairness of 70_reset_and_hazards.md R372), and the host's otherwise (DESIGN CHOICE in form,
notes/assumptions/5.md). -/
def nextTurn (s : State) : Turn :=
  match s.sched with
  | t :: _ => t
  | [] => if s.busy then .engine else .host

/-- The event is taken off the schedule. -/
def spendTurn (s : State) : State := { s with sched := s.sched.tail }

/-- One event. -/
def takeTurn (t : Turn) (s : State) : Host.Outcome State Fault Refusal :=
  match t with
  | .host => .next (hostStep busAccess s)
  | .engine => complete s
  | .reset => .next (resetEngine s)
  | .hostInReset => .next (hostStep busInReset (resetEngine s))

/-- Puts a command word where `Complete` takes its next command: the issue of R150, with no other event before it
(DESIGN CHOICE, notes/assumptions/6.md). -/
def placeCommand (w : Word) (s : State) : State := { issue w s with sched := [] }

end Sys2Proof.Machine
end

