-- ==== Sys2Proof/Machine/Step.lean ====
section
/-! DEFINITION. One step of the machine: the next event of the two agents or of reset (00_scope.md R14, R15). -/

namespace Sys2Proof.Machine

/-- One step: the next event, taken off the schedule, happens. -/
def step (s : State) : Host.Outcome State Fault Refusal := takeTurn (nextTurn s) (spendTurn s)

/-- The state in which the next step completes the command word whose bits are `w` (of `nbits` bits): the word is issued,
as a host write to CMD issues it (40_command_model.md R150), and the engine moves next. -/
def State.withFetchWord (s : State) (nbits w : Nat) : State := placeCommand (BitVec.ofNat 32 (w % 2 ^ nbits)) s

end Sys2Proof.Machine
end

