-- ==== Sys2Proof/Safety.lean ====
section
/-! DEFINITION. What counts as a good state (10_state.md R36, R53; 60_exceptions.md R330), and the terms in which the
statements say what a command leaves unchanged (10_state.md R57, 40_command_model.md R153). -/

namespace Sys2Proof.Machine

/-- The STATUS invariant: DONE implies not BUSY, ERR implies DONE and a nonzero ERRCODE, and no ERR means ERRCODE 0
(R36, R53 (3)). -/
abbrev StatusConsistent (s : State) : Prop :=
  (s.done = true → s.busy = false) ∧ (s.err = true → s.done = true ∧ s.errCode ≠ 0#4) ∧
    (s.err = false → s.errCode = 0#4)

/-- ERRCODE values 9 to 15 are never produced (R330). -/
abbrev ErrCodeProduced (s : State) : Prop := s.errCode.toNat ≤ 8

/-- The session invariant: loaded tables are a permutation and its inverse, and a key never stands without tables
(R53 (1), (2)). -/
abbrev SessionConsistent (s : State) : Prop :=
  (s.sboxValid = true → isPerm s.sbox = true ∧ s.invSbox = inverseTable s.sbox) ∧
    (s.keyValid = true → s.sboxValid = true)

/-- A pending word is the word LAST_CMD holds (R38, R150). -/
abbrev PendingLogged (s : State) : Prop := s.pend = none ∨ s.pend = some s.lastCmd

/-- A buffer in canonical form whose known bytes lie below its capacity (R47). -/
abbrev BufferOk (m : Memory) (capacity : Nat) : Prop := Memory.wf m ∧ ∀ x ∈ m, x.1 < capacity

/-- Both buffers are in canonical form and within their capacities (R11, R47). -/
abbrev BuffersOk (s : State) : Prop := BufferOk s.ibuf s.cfg.msgMaxBytes ∧ BufferOk s.obuf s.cfg.obufBytes

/-- The invariant of the machine. -/
abbrev Inv (s : State) : Prop :=
  StatusConsistent s ∧ ErrCodeProduced s ∧ SessionConsistent s ∧ PendingLogged s ∧ BuffersOk s

/-- The session is unchanged: KEY, both tables and their valid bits. -/
abbrev SameSession (s t : State) : Prop :=
  t.key = s.key ∧ t.sbox = s.sbox ∧ t.invSbox = s.invSbox ∧ t.keyValid = s.keyValid ∧ t.sboxValid = s.sboxValid

/-- The host's operand registers are unchanged: DIN0, DIN1, ROUNDS and MSG_LEN. -/
abbrev SameOperands (s t : State) : Prop :=
  t.din0 = s.din0 ∧ t.din1 = s.din1 ∧ t.rounds = s.rounds ∧ t.msgLen = s.msgLen

/-- Everything no command touches is unchanged: the configuration, LAST_CMD, the sticky flags, the host and the schedule. -/
abbrev SameSurroundings (s t : State) : Prop :=
  t.cfg = s.cfg ∧ t.lastCmd = s.lastCmd ∧ t.cmdOvr = s.cmdOvr ∧ t.wrIgn = s.wrIgn ∧ t.host = s.host ∧ t.sched = s.sched

/-- Every byte of a buffer reads as before. -/
abbrev SameBytes (m m' : Memory) : Prop := ∀ a, Memory.byte? m' a = Memory.byte? m a

/-- Every byte of a buffer outside the first `n` reads as before. -/
abbrev SameBytesFrom (n : Nat) (m m' : Memory) : Prop := ∀ a, n ≤ a → Memory.byte? m' a = Memory.byte? m a

/-- The completion every command ends in: PEND none and DONE set (R151). -/
abbrev Completed (t : State) : Prop := t.pend = none ∧ t.done = true

/-- ERR and ERRCODE keep their values: no error was raised. -/
abbrev NoErrorRaised (s t : State) : Prop := t.err = s.err ∧ t.errCode = s.errCode

/-- The engine's completion with one error and no other effect (R331, R333). -/
def failedWith (code : BitVec 4) (s : State) : State :=
  { s with pend := none, done := true, err := true, errCode := code }

/-- ROUNDS is legal (R10, R39). -/
abbrev RoundsLegal (s : State) : Prop := 1 ≤ s.rounds.toNat ∧ s.rounds.toNat ≤ 16

/-- The number of 1 bits of a half. -/
def onesIn (x : Half) : Nat := ((List.range 16).map fun i => (x.getLsbD i).toNat).sum

/-- The LFSR state after `n` steps (42_lfsr_keystream_gen.md R182). -/
def lfsrAfter (n : Nat) (s : Word) : Word := (fun x => (lfsrStep x).1)^[n] s

/-- A buffer holds the known bytes `d` from index 0. -/
abbrev HoldsBytes (m : Memory) (d : List Byte) : Prop := ∀ i, i < d.length → Memory.byte? m i = d[i]?

/-- `d` is a message the engine may read from IBUF: MSG_LEN bytes, each known byte as it is; an unknown byte may be any
(20_memory.md R89, 00_scope.md R19). -/
abbrev ReadsMessage (s : State) (d : List Byte) : Prop :=
  d.length = s.msgLen.toNat ∧ ∀ i b, i < s.msgLen.toNat → Memory.byte? s.ibuf i = some b → d[i]? = some b

/-- What a host sees that issues a block command for each block of a list in turn, DIN0 reloaded in between: the DOUT of
each, and the last state; none if a command does not complete (46_feistel_block.md R277). -/
def hostChain (i : Instr) : List Word → State → Option (List Word × State)
  | [], s => some ([], s)
  | b :: bs, s =>
    match exec i { s with din0 := b } with
    | .next t => (hostChain i bs t).map fun r => (t.dout :: r.1, r.2)
    | .fault _ => none
    | .refused _ => none

/-- The commands that raise NO_SBOX while SBOX_VALID = 0 (60_exceptions.md R330). -/
def usesSbox : Instr → Bool
  | .nop => false
  | .keyLoad => false
  | .sboxLoad => false
  | .sboxRd _ => true
  | .rotl16 _ => false
  | .lfsrStep => false
  | .subst => true
  | .isubst => true
  | .perm => false
  | .iperm => false
  | .roundf _ => true
  | .encRound _ => true
  | .decRound _ => true
  | .encBlk => true
  | .decBlk => true
  | .encMsg => true
  | .decMsg => true

/-- The commands that raise BAD_ROUNDS (R330). -/
abbrev UsesRounds (i : Instr) : Prop := i = .encBlk ∨ i = .decBlk ∨ i = .encMsg ∨ i = .decMsg

/-- The commands that raise NO_KEY and LEN_OVERFLOW (R330). -/
abbrev UsesMessage (i : Instr) : Prop := i = .encMsg ∨ i = .decMsg

/-- Entry `i` of the table SBOX_LOAD reads (43_sbox_permutation_rom.md R203, R211). -/
def hostEntry (s : State) (i : Fin 16) : Nibble :=
  if i.val < 8 then s.din0.extractLsb' (4 * i.val) 4 else s.din1.extractLsb' (4 * (i.val - 8)) 4

/-- No two of the entries SBOX_LOAD reads are equal (R201, R211). -/
abbrev HostEntriesDistinct (s : State) : Prop := ∀ i j : Fin 16, hostEntry s i = hostEntry s j → i = j

/-- The ERRCODE of the first error of R332 (items 2 to 8) that applies to a decoded command, by the causes of R330. -/
def earlyError (i : Instr) (s : State) : Option (BitVec 4) :=
  if i = .sboxLoad ∧ ¬HostEntriesDistinct s then some 8#4
  else if usesSbox i = true ∧ s.sboxValid = false then some 4#4
  else if UsesMessage i ∧ s.keyValid = false then some 5#4
  else if UsesRounds i ∧ ¬RoundsLegal s then some 6#4
  else if UsesMessage i ∧ s.cfg.msgMaxBytes < s.msgLen.toNat then some 7#4
  else if i = .decMsg ∧ s.msgLen.toNat % 4 ≠ 0 then some 2#4
  else if i = .decMsg ∧ s.msgLen.toNat = 0 then some 1#4
  else none

/-- `U` undoes `T`: `U[T[i]] = i` for every i (R201). -/
abbrev Undoes (t u : Table) : Prop := ∀ i : Fin 16, u.toList[t[i].toNat]? = some (BitVec.ofFin i)

/-- The 32-bit aligned addresses of the address map (20_memory.md R81). -/
abbrev MappedAddress (cfg : Config) (a : Nat) : Prop :=
  a ≤ 0x28 ∨ (0x40 ≤ a ∧ a ≤ 0x7C) ∨ (0x4000 ≤ a ∧ a < 0x4000 + cfg.msgMaxBytes) ∨
    (0x8000 ≤ a ∧ a < 0x8000 + cfg.msgMaxBytes + 4)

/-- The addresses whose write gets a bus error: LAST_CMD, DOUT, OUT_LEN, PARAM, SKLOG and the OBUF window (R86 item 3). -/
abbrev ReadOnlyAddress (a : Nat) : Prop :=
  a = 0x08 ∨ a = 0x1C ∨ a = 0x24 ∨ a = 0x28 ∨ (0x40 ≤ a ∧ a ≤ 0x7C) ∨ 0x8000 ≤ a

/-- The addresses of the data a host may write while BUSY = 0: ROUNDS, LFSR, DIN0, DIN1, MSG_LEN and the IBUF window
(R86 item 6, R87). -/
abbrev DataAddress (cfg : Config) (a : Nat) : Prop :=
  a = 0x0C ∨ a = 0x10 ∨ a = 0x14 ∨ a = 0x18 ∨ a = 0x20 ∨ (0x4000 ≤ a ∧ a < 0x4000 + cfg.msgMaxBytes)

/-- The addresses whose read is contested while BUSY = 1: DOUT, LFSR, OUT_LEN, SKLOG and the OBUF window (R88). -/
abbrev ContestedAddress (cfg : Config) (a : Nat) : Prop :=
  a = 0x10 ∨ a = 0x1C ∨ a = 0x24 ∨ (0x40 ≤ a ∧ a ≤ 0x7C) ∨ (0x8000 ≤ a ∧ a < 0x8000 + cfg.msgMaxBytes + 4)

/-- The commands whose only result is DOUT (10_state.md R57). -/
abbrev WritesOnlyDout (i : Instr) : Prop :=
  i = .subst ∨ i = .isubst ∨ i = .perm ∨ i = .iperm ∨
    ∃ imm, i = .sboxRd imm ∨ i = .rotl16 imm ∨ i = .roundf imm ∨ i = .encRound imm ∨ i = .decRound imm

end Sys2Proof.Machine
end

