-- ==== Sys2Proof/Certificates/Slice0/Obligations.lean ====
section
/-! DEFINITION. The statements for the provers, file by file through the numbered rules of the spec. A write's response is
stated as `.ok d` for some `d`, because the spec gives a write's response no data. The draws (00_scope.md R19, R88) stay free:
a statement never rests on the value of one. -/

open Sys2Proof Sys2Proof.Machine

/-! ### Encoding (30_encoding.md) -/

/-- R121, R122, R127, R129: decoding the assembled word of a well-formed command gives the command back, whatever its
immediate; and a word that decodes is the assembled word of its command, which is well formed. So no bit of a word is dropped
and no two words stand for one command. -/
def Obligations.DecodeAndEncodeAgree : Prop :=
  (∀ i : Instr, i.wellFormed = true → decode (encode i) = .ok i) ∧
  ∀ (w : Word) (i : Instr), decode w = .ok i → encode i = w ∧ i.wellFormed = true

/-- R123: a word selects the command of a row of R122 exactly when `(w & mask) = match`, with the mask of the row's format
and match = o << 24; and its two examples. -/
def Obligations.WordSelectsRowByMaskAndMatch : Prop :=
  (∀ r ∈ opcodeMap, ∀ w : Word,
    decode w = .ok (r.make (w.extractLsb' 0 16)) ↔
      w &&& (match r.format with | .z => 0xFFFFFFFF#32 | .i => 0xFFFF0000#32 | .s => 0xFFFFFFFC#32) =
        r.opc.setWidth 32 <<< 24) ∧
  encode .encBlk = 0x60000000#32 ∧ encode (.roundf 0xABCD#16) = 0x5000ABCD#32

/-- R128, R127, R331: a word is illegal exactly when its OPC is unassigned, RSV is not 0, a Z-format IMM is not 0 or an
S-format IMM[15:2] is not 0; and the step that completes an illegal word sets ERR and ERRCODE 3, completes, and changes
nothing else. -/
def Obligations.IllegalWordsCompleteWithIllegalCmd : Prop :=
  (∀ w : Word, (∃ e, decode w = .error e) ↔
    (w.extractLsb' 24 8 ∉ [0x00#8, 0x01#8, 0x02#8, 0x03#8, 0x10#8, 0x20#8, 0x30#8, 0x31#8, 0x40#8, 0x41#8, 0x50#8,
        0x51#8, 0x52#8, 0x60#8, 0x61#8, 0x70#8, 0x71#8] ∨
      w.extractLsb' 16 8 ≠ 0#8 ∨
      (w.extractLsb' 24 8 ∈ [0x00#8, 0x01#8, 0x02#8, 0x20#8, 0x30#8, 0x31#8, 0x40#8, 0x41#8, 0x60#8, 0x61#8, 0x70#8,
        0x71#8] ∧ w.extractLsb' 0 16 ≠ 0#16) ∨
      (w.extractLsb' 24 8 = 0x03#8 ∧ w.extractLsb' 2 14 ≠ 0#14))) ∧
  ∀ (s : State) (w : Word) (e : Reject), nextTurn s = .engine → s.pend = some w → decode w = .error e →
    step s = .next
      { s with sched := s.sched.tail, pend := none, done := true, err := true, errCode := 3#4 }

/-- R133: the worked encodings, as words written out, with the source text of each (R129); and its two illegal words,
whose completion is ILLEGAL_CMD. -/
def Obligations.WorkedEncodings : Prop :=
  (assembleCmd ⟨"NOP", none⟩ = some 0x00000000#32 ∧ decode 0x00000000#32 = .ok .nop) ∧
  (assembleCmd ⟨"KEY_LOAD", none⟩ = some 0x01000000#32 ∧ decode 0x01000000#32 = .ok .keyLoad) ∧
  (assembleCmd ⟨"SBOX_LOAD", none⟩ = some 0x02000000#32 ∧ decode 0x02000000#32 = .ok .sboxLoad) ∧
  (assembleCmd ⟨"SBOX_RD.IHI", none⟩ = some 0x03000003#32 ∧ decode 0x03000003#32 = .ok (.sboxRd 3#16)) ∧
  (assembleCmd ⟨"ROTL16", some (-1)⟩ = some 0x1000FFFF#32 ∧ decode 0x1000FFFF#32 = .ok (.rotl16 0xFFFF#16)) ∧
  (assembleCmd ⟨"ROTL16", some 4⟩ = some 0x10000004#32 ∧ decode 0x10000004#32 = .ok (.rotl16 4#16)) ∧
  (assembleCmd ⟨"LFSR_STEP", none⟩ = some 0x20000000#32 ∧ decode 0x20000000#32 = .ok .lfsrStep) ∧
  (assembleCmd ⟨"SUBST", none⟩ = some 0x30000000#32 ∧ decode 0x30000000#32 = .ok .subst) ∧
  (assembleCmd ⟨"IPERM", none⟩ = some 0x41000000#32 ∧ decode 0x41000000#32 = .ok .iperm) ∧
  (assembleCmd ⟨"ROUNDF", some 0xABCD⟩ = some 0x5000ABCD#32 ∧ decode 0x5000ABCD#32 = .ok (.roundf 0xABCD#16)) ∧
  (assembleCmd ⟨"ENC_ROUND", some 0x1357⟩ = some 0x51001357#32 ∧ decode 0x51001357#32 = .ok (.encRound 0x1357#16)) ∧
  (assembleCmd ⟨"DEC_BLK", none⟩ = some 0x61000000#32 ∧ decode 0x61000000#32 = .ok .decBlk) ∧
  (assembleCmd ⟨"ENC_MSG", none⟩ = some 0x70000000#32 ∧ decode 0x70000000#32 = .ok .encMsg) ∧
  (assembleCmd ⟨"DEC_MSG", none⟩ = some 0x71000000#32 ∧ decode 0x71000000#32 = .ok .decMsg) ∧
  ∀ (s : State) (w : Word), w = 0x60000001#32 ∨ w = 0x60010000#32 → s.pend = some w →
    complete s = .next (failedWith 3#4 s)

/-! ### The step and the two agents (00_scope.md R15, 40_command_model.md) -/

/-- R151, R15: when the engine moves and a word is pending that decodes, the step is `exec` of the decoded command at the
state whose schedule has lost the event. The engine moves when its event is next on the schedule, or when none is left. -/
def Obligations.StepRunsTheDecodedCommand : Prop :=
  ∀ (s : State) (w : Word) (i : Instr), s.pend = some w → decode w = .ok i →
    (s.sched = [] ∨ ∃ rest, s.sched = .engine :: rest) →
      step s = exec i { s with sched := s.sched.tail }

/-- R130, R86: the host's events, by its next statement. An access is made, the script goes on, and the data of a read (0 with
a bus error) becomes the last read value; JBS and JBC jump on a bit of that value; HALT ends the script. The last three touch
nothing of the engine. -/
def Obligations.HostTurnsRunTheScript : Prop :=
  ∀ (s : State) (rest : List Turn), s.sched = .host :: rest →
    (∀ (t : State) (a : Access) (r : Response), s.host.script[s.host.pos]? = some (.access a) →
      busAccess a { s with sched := rest } = (r, t) →
        ∃ h : HostAgent, step s = .next { t with host := h } ∧ h.script = s.host.script ∧ h.pos = s.host.pos + 1 ∧
          h.resp = some r ∧ (a.write ≠ none → h.t = s.host.t) ∧
          (a.write = none → ∀ v, r = .ok v → h.t = v) ∧ (a.write = none → r = .busErr → h.t = 0#32)) ∧
    (∀ (n : Nat) (b : Fin 32), s.host.script[s.host.pos]? = some (.jbs n b) →
      step s = .next { s with sched := rest, host :=
        { s.host with pos := if s.host.t.getLsbD b = true then n else s.host.pos + 1 } }) ∧
    (∀ (n : Nat) (b : Fin 32), s.host.script[s.host.pos]? = some (.jbc n b) →
      step s = .next { s with sched := rest, host :=
        { s.host with pos := if s.host.t.getLsbD b = true then s.host.pos + 1 else n } }) ∧
    (s.host.script[s.host.pos]? = some .halt → step s = .next { s with sched := rest })

/-- R131: two host events at a WAIT leave the loop exactly when BUSY = 0, with bit 0 of `t` telling BUSY, and change nothing
of the engine. -/
def Obligations.WaitLoopsExactlyWhileBusy : Prop :=
  ∀ (s : State) (rest : List Turn), s.sched = .host :: .host :: rest →
    s.host.script[s.host.pos]? = some (.access ⟨32, 0x0004#16, none⟩) →
    s.host.script[s.host.pos + 1]? = some (.jbs s.host.pos 0) →
      ∃ t, core.run 2 s = .next t ∧ t = { s with sched := rest, host := t.host } ∧
        t.host.t.getLsbD 0 = s.pend.isSome ∧
        t.host.pos = if s.pend = none then s.host.pos + 2 else s.host.pos

/-- R150, R152: a CMD write while nothing is pending issues the word: PEND and LAST_CMD take it, DONE, ERR and ERRCODE are
cleared, nothing else changes, the response is OK, and BUSY reads 1 from then on, until the completion. While a command is
pending the write is dropped: CMD_OVR is set, the response is OK, nothing else changes. -/
def Obligations.CommandWriteIssuesOrIsDropped : Prop :=
  ∀ (s : State) (w : Word),
    (s.pend = none →
      ∃ d, busAccess ⟨32, 0x0000#16, some w⟩ s =
          (.ok d, { s with pend := some w, lastCmd := w, done := false, err := false, errCode := 0#4 }) ∧
        (statusWord { s with pend := some w, lastCmd := w, done := false, err := false, errCode := 0#4 }).getLsbD 0 = true) ∧
    (s.pend ≠ none → ∃ d, busAccess ⟨32, 0x0000#16, some w⟩ s = (.ok d, { s with cmdOvr := true }))

/-- R155: NOP, word 0x00000000, completes with no other effect; a host that issues it clears an error report, and leaves the
sticky flags. -/
def Obligations.NopClearsAnErrorReport : Prop :=
  decode 0x00000000#32 = .ok .nop ∧
  (∀ s : State, exec .nop s = .next { s with pend := none, done := true }) ∧
  ∀ s t : State, ∀ d, s.pend = none → busAccess ⟨32, 0x0000#16, some 0x00000000#32⟩ s = (.ok d, t) →
    complete t = .next { s with lastCmd := 0#32, done := true, err := false, errCode := 0#4 }

/-! ### Host accesses (20_memory.md, 10_state.md) -/

/-- R82, R86 items 1 to 3, R81: an access gets a bus error exactly when it is not 32 bits wide, is not aligned, is not
mapped, or writes a read-only target; and then no state changes. -/
def Obligations.BusErrorsAreExactlyThese : Prop :=
  ∀ (s : State) (a : Access),
    ((busAccess a s).1 = .busErr ↔
      (a.width ≠ 32 ∨ a.addr.toNat % 4 ≠ 0 ∨ ¬MappedAddress s.cfg a.addr.toNat ∨
        (a.write ≠ none ∧ ReadOnlyAddress a.addr.toNat))) ∧
    ((busAccess a s).1 = .busErr → (busAccess a s).2 = s)

/-- R87: while a command is pending, a write to ROUNDS, LFSR, DIN0, DIN1, MSG_LEN or the IBUF window is dropped: WR_IGN is
set, the response is OK, nothing else changes. -/
def Obligations.DataWritesWhileBusyAreDropped : Prop :=
  ∀ (s : State) (a : BitVec 16) (v : Word), s.pend ≠ none → a.toNat % 4 = 0 → DataAddress s.cfg a.toNat →
    ∃ d, busAccess ⟨32, a, some v⟩ s = (.ok d, { s with wrIgn := true })

/-- R86 item 7 with R39 to R42 and R44: while nothing is pending, a write to a data register stores the value as written,
ROUNDS its bits 7:0. -/
def Obligations.DataRegisterWritesStore : Prop :=
  ∀ (s : State) (v : Word), s.pend = none →
    (∃ d, busAccess ⟨32, 0x000C#16, some v⟩ s = (.ok d, { s with rounds := v.extractLsb' 0 8 })) ∧
    (∃ d, busAccess ⟨32, 0x0010#16, some v⟩ s = (.ok d, { s with lfsr := v })) ∧
    (∃ d, busAccess ⟨32, 0x0014#16, some v⟩ s = (.ok d, { s with din0 := v })) ∧
    (∃ d, busAccess ⟨32, 0x0018#16, some v⟩ s = (.ok d, { s with din1 := v })) ∧
    (∃ d, busAccess ⟨32, 0x0020#16, some v⟩ s = (.ok d, { s with msgLen := v }))

/-- R35, R38 to R46, R48, R86 item 8, R91: what every register reads as, with no effect; LFSR, DOUT, OUT_LEN and SKLOG while
nothing is pending, the others always. -/
def Obligations.RegistersReadTheirValues : Prop :=
  ∀ s : State,
    busAccess ⟨32, 0x0000#16, none⟩ s = (.ok 0x00000000#32, s) ∧
    busAccess ⟨32, 0x0004#16, none⟩ s = (.ok (statusWord s), s) ∧
    busAccess ⟨32, 0x0008#16, none⟩ s = (.ok s.lastCmd, s) ∧
    busAccess ⟨32, 0x000C#16, none⟩ s = (.ok (s.rounds.setWidth 32), s) ∧
    busAccess ⟨32, 0x0014#16, none⟩ s = (.ok s.din0, s) ∧
    busAccess ⟨32, 0x0018#16, none⟩ s = (.ok s.din1, s) ∧
    busAccess ⟨32, 0x0020#16, none⟩ s = (.ok s.msgLen, s) ∧
    (∃ p : Word, busAccess ⟨32, 0x0028#16, none⟩ s = (.ok p, s) ∧ p.extractLsb' 24 8 = 0x01#8 ∧
      p.extractLsb' 16 8 = 0x10#8 ∧ (p.extractLsb' 0 16).toNat = s.cfg.msgMaxBytes) ∧
    (s.pend = none →
      busAccess ⟨32, 0x0010#16, none⟩ s = (.ok s.lfsr, s) ∧
      busAccess ⟨32, 0x001C#16, none⟩ s = (.ok s.dout, s) ∧
      busAccess ⟨32, 0x0024#16, none⟩ s = (.ok s.outLen, s) ∧
      ∀ i : Fin 16, busAccess ⟨32, BitVec.ofNat 16 (0x40 + 4 * i.val), none⟩ s = (.ok (s.sklog[i].setWidth 32), s))

/-- R88: while a command is pending, a read of DOUT, LFSR, OUT_LEN, SKLOG or the OBUF window is answered OK with a draw, and
changes nothing but the model's count of draws. The form of the draw, an opaque value at that count, is the model's
(notes/assumptions/4.md). -/
def Obligations.ContestedReadsAreDraws : Prop :=
  ∀ (s : State) (a : BitVec 16), s.pend ≠ none → a.toNat % 4 = 0 → ContestedAddress s.cfg a.toNat →
    busAccess ⟨32, a, none⟩ s = (.ok (Config.drawWord s.draws), { s with draws := s.draws + 1 })

/-- R36, R33: the fields of STATUS, bit by bit, and its reserved bits. -/
def Obligations.StatusShowsItsFields : Prop :=
  ∀ s : State,
    (statusWord s).getLsbD 0 = s.pend.isSome ∧ (statusWord s).getLsbD 1 = s.done ∧ (statusWord s).getLsbD 2 = s.err ∧
    (statusWord s).getLsbD 4 = s.keyValid ∧ (statusWord s).getLsbD 5 = s.sboxValid ∧
    (statusWord s).extractLsb' 8 4 = s.errCode ∧
    (statusWord s).getLsbD 16 = s.cmdOvr ∧ (statusWord s).getLsbD 17 = s.wrIgn ∧
    ∀ i, i = 3 ∨ i = 6 ∨ i = 7 ∨ (12 ≤ i ∧ i ≤ 15) ∨ 18 ≤ i → (statusWord s).getLsbD i = false

/-- R37: a STATUS write clears CMD_OVR and WR_IGN where a 1 is written, sets nothing, changes nothing else, and is accepted
and answered OK whether or not a command is pending. -/
def Obligations.StatusWriteClearsStickyFlags : Prop :=
  ∀ (s : State) (v : Word), ∃ d t, busAccess ⟨32, 0x0004#16, some v⟩ s = (.ok d, t) ∧
    t = { s with cmdOvr := t.cmdOvr, wrIgn := t.wrIgn } ∧
    (v.getLsbD 16 = true → t.cmdOvr = false) ∧ (v.getLsbD 16 = false → t.cmdOvr = s.cmdOvr) ∧
    (v.getLsbD 17 = true → t.wrIgn = false) ∧ (v.getLsbD 17 = false → t.wrIgn = s.wrIgn)

/-- R83, R84, R85, R87, R88: while nothing is pending, a word write to the IBUF window makes its four bytes known, big-endian,
leaves every other byte of both buffers and all other state alone, and a read of that word gives the value back; while a
command is pending the word is not written. A read of an IBUF word whose bytes are known, whether or not a command is pending,
and of an OBUF word whose bytes are known, while nothing is pending, is answered OK with them, big-endian. -/
def Obligations.BufferWindowsAreBigEndian : Prop :=
  (∀ (s : State) (k : Nat) (v : Word), 4 * k + 3 < s.cfg.msgMaxBytes →
    (s.pend = none →
      ∃ d t, busAccess ⟨32, BitVec.ofNat 16 (0x4000 + 4 * k), some v⟩ s = (.ok d, t) ∧
        t = { s with ibuf := t.ibuf } ∧
        Memory.byte? t.ibuf (4 * k) = some (v.extractLsb' 24 8) ∧
        Memory.byte? t.ibuf (4 * k + 1) = some (v.extractLsb' 16 8) ∧
        Memory.byte? t.ibuf (4 * k + 2) = some (v.extractLsb' 8 8) ∧
        Memory.byte? t.ibuf (4 * k + 3) = some (v.extractLsb' 0 8) ∧
        (∀ a, a < 4 * k ∨ 4 * k + 3 < a → Memory.byte? t.ibuf a = Memory.byte? s.ibuf a) ∧
        (busAccess ⟨32, BitVec.ofNat 16 (0x4000 + 4 * k), none⟩ t).1 = .ok v) ∧
    (s.pend ≠ none →
      ∃ d, busAccess ⟨32, BitVec.ofNat 16 (0x4000 + 4 * k), some v⟩ s = (.ok d, { s with wrIgn := true }))) ∧
  (∀ (s : State) (k : Nat) (b0 b1 b2 b3 : Byte), 4 * k + 3 < s.cfg.msgMaxBytes →
    Memory.byte? s.ibuf (4 * k) = some b0 → Memory.byte? s.ibuf (4 * k + 1) = some b1 →
    Memory.byte? s.ibuf (4 * k + 2) = some b2 → Memory.byte? s.ibuf (4 * k + 3) = some b3 →
      (busAccess ⟨32, BitVec.ofNat 16 (0x4000 + 4 * k), none⟩ s).1 = .ok (b0 ++ b1 ++ b2 ++ b3)) ∧
  ∀ (s : State) (k : Nat) (b0 b1 b2 b3 : Byte), s.pend = none → 4 * k + 3 < s.cfg.msgMaxBytes + 4 →
    Memory.byte? s.obuf (4 * k) = some b0 → Memory.byte? s.obuf (4 * k + 1) = some b1 →
    Memory.byte? s.obuf (4 * k + 2) = some b2 → Memory.byte? s.obuf (4 * k + 3) = some b3 →
      (busAccess ⟨32, BitVec.ofNat 16 (0x8000 + 4 * k), none⟩ s).1 = .ok (b0 ++ b1 ++ b2 ++ b3)

/-- R91: no read has a side effect: a read access leaves every field as it was but the model's own count of draws. -/
def Obligations.ReadsHaveNoSideEffect : Prop :=
  ∀ (s : State) (a : Access), a.write = none → ∃ n, (busAccess a s).2 = { s with draws := n }

/-- R49, R51, R345: KEY, SBOX and INVSBOX have no address: no access answers differently, or does anything else differently,
for another key or other tables. It compares two accesses from states with one count of draws: that a contested read (R88) or
an unknown byte is answered the same rests on equal counts giving equal draws, which is the model's form of a draw and not the
spec's (notes/assumptions/4.md, unsafe for such a comparison: hardware may show there a value that depends on KEY). -/
def Obligations.KeyAndTablesHaveNoAddress : Prop :=
  ∀ (s : State) (a : Access) (k : Word) (t u : Table),
    busAccess a { s with key := k, sbox := t, invSbox := u } =
      ((busAccess a s).1, { (busAccess a s).2 with key := k, sbox := t, invSbox := u })

/-- R92 (a), R87: no host event changes the pending command or anything a command reads. -/
def Obligations.OperandsAreFrozenWhilePending : Prop :=
  ∀ s t : State, s.pend ≠ none → nextTurn s = .host → step s = .next t →
    t.pend = s.pend ∧ SameOperands s t ∧ SameSession s t ∧ t.lfsr = s.lfsr ∧ SameBytes s.ibuf t.ibuf ∧
      SameBytes s.obuf t.obuf ∧ t.dout = s.dout ∧ t.outLen = s.outLen ∧ t.sklog = s.sklog

/-- R372, R151, R92 (a): while a command is pending and the schedule, which is the model's form of R372
(notes/assumptions/5.md), holds no reset event, then after no more steps than the schedule is long the same command is still
pending, with the operands, the session, LFSR and IBUF it was issued with, and the next step is its completion: `complete` of
that state, which clears PEND and sets DONE. And whatever the schedule, a reset event included (it aborts the command, R360),
within one step more than its length nothing is pending. -/
def Obligations.PendingCommandCompletesInTime : Prop :=
  (∀ (s : State) (w : Word), s.pend = some w → .reset ∉ s.sched → .hostInReset ∉ s.sched →
    ∃ k t u, k ≤ s.sched.length ∧ core.run k s = .next t ∧
      t.pend = some w ∧ t.lastCmd = s.lastCmd ∧ SameOperands s t ∧ SameSession s t ∧ t.lfsr = s.lfsr ∧
      SameBytes s.ibuf t.ibuf ∧
      nextTurn t = .engine ∧ step t = complete { t with sched := t.sched.tail } ∧ step t = .next u ∧ Completed u) ∧
  ∀ s : State, ∃ k t, k ≤ s.sched.length + 1 ∧ core.run k s = .next t ∧ t.pend = none

/-! ### Reset and invariants (10_state.md R53, R56; 70_reset_and_hazards.md) -/

/-- R56: the values the spec states for reset. (The tables, unspecified there, are not mentioned.) -/
def Obligations.ResetStateHoldsTheResetValues : Prop :=
  State.reset.pend = none ∧ statusWord State.reset = 0#32 ∧ State.reset.errCode = 0#4 ∧ State.reset.lastCmd = 0#32 ∧
  State.reset.lfsr = 0#32 ∧ State.reset.din0 = 0#32 ∧ State.reset.din1 = 0#32 ∧ State.reset.dout = 0#32 ∧
  State.reset.msgLen = 0#32 ∧ State.reset.outLen = 0#32 ∧ State.reset.key = 0#32 ∧ State.reset.rounds = 4#8 ∧
  State.reset.keyValid = false ∧ State.reset.sboxValid = false ∧ (∀ i : Fin 16, State.reset.sklog[i] = 0#16) ∧
  (∀ a, Memory.byte? State.reset.ibuf a = none) ∧ (∀ a, Memory.byte? State.reset.obuf a = none)

/-- R360, R361, R341: a reset, whenever it comes, gives every field of the engine its reset value (the tables are
unspecified) and aborts a pending command; the configuration, the host and the schedule are no fields of the engine. An access
the host makes while `rst_n = 0` gets a bus error and finds the engine in the same reset state. -/
def Obligations.ResetSetsEveryEngineField : Prop :=
  ∀ (s : State) (rest : List Turn),
    (s.sched = .reset :: rest ∨ s.sched = .hostInReset :: rest) →
      ∃ t, step s = .next t ∧ t.pend = none ∧ statusWord t = 0#32 ∧ t.lastCmd = 0#32 ∧ t.rounds = 4#8 ∧ t.lfsr = 0#32 ∧
        t.din0 = 0#32 ∧ t.din1 = 0#32 ∧ t.dout = 0#32 ∧ t.msgLen = 0#32 ∧ t.outLen = 0#32 ∧
        (∀ i : Fin 16, t.sklog[i] = 0#16) ∧ t.key = 0#32 ∧ t.keyValid = false ∧ t.sboxValid = false ∧
        (∀ a, Memory.byte? t.ibuf a = none) ∧ (∀ a, Memory.byte? t.obuf a = none) ∧
        t.cfg = s.cfg ∧ t.sched = rest ∧ (s.sched = .reset :: rest → t.host = s.host) ∧
        (s.sched = .hostInReset :: rest → ∀ a, s.host.script[s.host.pos]? = some (.access a) →
          t.host.resp = some .busErr)

/-- R50, R52, R360: only a reset clears KEY_VALID or SBOX_VALID. -/
def Obligations.OnlyResetClearsTheSession : Prop :=
  ∀ s t : State, step s = .next t → nextTurn s ≠ .reset → nextTurn s ≠ .hostInReset →
    (s.keyValid = true → t.keyValid = true) ∧ (s.sboxValid = true → t.sboxValid = true)

/-- R53, R56: the invariant of `EveryStepKeepsTheInvariant`, the model's canonical form of the buffers
(notes/assumptions/21.md) included, holds after reset. -/
def Obligations.ResetStateMeetsTheInvariant : Prop := Inv State.reset

/-- Every step keeps the invariant: STATUS is consistent (R36, R53), ERRCODE is a produced code (R330), valid tables are a
permutation and its inverse and a key never stands without tables (R53), a pending word is logged in LAST_CMD (R38, R150), and
both buffers are within their capacities (R47) and in canonical form, which is the model's own choice of form
(notes/assumptions/21.md). -/
def Obligations.EveryStepKeepsTheInvariant : Prop :=
  ∀ s t : State, Inv s → step s = .next t → Inv t

/-- R51, 93_implementation_defined.md item 5: while SBOX_VALID = 0 the contents of the tables are never observed: with any
other tables the step does the same to every other field, and where it loads tables it loads the same ones. It compares two
steps from states with one count of draws: that a draw is the same in both rests on equal counts giving equal draws, which is
the model's form of a draw and not the spec's (notes/assumptions/4.md, unsafe for such a comparison). -/
def Obligations.UnloadedTablesAreNeverObserved : Prop :=
  ∀ (s t : State) (p q : Table), s.sboxValid = false → step s = .next t →
    ∃ t', step { s with sbox := p, invSbox := q } = .next t' ∧ t' = { t with sbox := t'.sbox, invSbox := t'.invSbox } ∧
      (t.sboxValid = true → t' = t)

/-! ### Errors (60_exceptions.md) -/

/-- R332, R330, R331: a command reports the first error of R332's list that applies, and only that one. An illegal word is
decided first; an early error changes nothing but ERR, ERRCODE, DONE and PEND; a command with no early error completes, with
no error but the late one of DEC_MSG. -/
def Obligations.FirstApplicableErrorIsReported : Prop :=
  (∀ (s : State) (w : Word) (e : Reject), s.pend = some w → decode w = .error e →
    complete s = .next (failedWith 3#4 s)) ∧
  (∀ (i : Instr) (s : State) (c : BitVec 4), earlyError i s = some c → exec i s = .next (failedWith c s)) ∧
  ∀ (i : Instr) (s : State), earlyError i s = none →
    ∃ t, exec i s = .next t ∧ Completed t ∧
      (NoErrorRaised s t ∨ (i = .decMsg ∧ t.err = true ∧ t.errCode = 1#4 ∧ t.outLen = 0#32))

/-- R333: a completion that ends in an error never changes the session, and an early error changes nothing but STATUS and PEND;
the late error of DEC_MSG, which comes only where no early error applies, changes only the first MSG_LEN bytes of OBUF, LFSR,
SKLOG and OUT_LEN (and the model's own count of draws). -/
def Obligations.ErrorsArePreciseAndLocal : Prop :=
  ∀ (s t : State) (w : Word), s.pend = some w → s.err = false → complete s = .next t → t.err = true →
    SameSession s t ∧
    (t = failedWith t.errCode s ∨
      (decode w = .ok .decMsg ∧ earlyError .decMsg s = none ∧
        t = { failedWith 1#4 s with
          obuf := t.obuf, lfsr := t.lfsr, sklog := t.sklog, outLen := 0#32, draws := t.draws } ∧
        SameBytesFrom s.msgLen.toNat s.obuf t.obuf))

/-! ### BitOps (41_bitops.md) -/

/-- R170, R171, R125: ROTL16 completes with DOUT the zero-extended rotation: bit j of the result is bit `(j - n) mod 16` of
DIN0[15:0], n the signed immediate. -/
def Obligations.RotlRotatesTheLowHalf : Prop :=
  (∀ imm : Half, decode (BitVec.ofNat 32 (0x10000000 + imm.toNat)) = .ok (.rotl16 imm)) ∧
  ∀ (imm : Half) (s : State), ∃ y : Half,
    exec (.rotl16 imm) s = .next { s with pend := none, done := true, dout := y.setWidth 32 } ∧
    ∀ j : Nat, j < 16 → y.getLsbD j = s.din0.getLsbD (((j : Int) - imm.toInt) % 16).toNat

/-- R172: the laws of the rotate. -/
def Obligations.RotateLaws : Prop :=
  ∀ (x : Half) (n m : Int),
    rotl16 (rotl16 x n) m = rotl16 x (n + m) ∧ rotl16 (rotl16 x n) (-n) = x ∧ rotl16 x (n + 16) = rotl16 x n ∧
      onesIn (rotl16 x n) = onesIn x

/-! ### lfsr_keystream_gen (42_lfsr_keystream_gen.md) -/

/-- R184, R180: LFSR_STEP completes with LFSR and DOUT the next state: shifted right by one, bit 31 the XOR of the taps. -/
def Obligations.LfsrStepShiftsInTheTaps : Prop :=
  decode 0x20000000#32 = .ok .lfsrStep ∧
  ∀ s : State, ∃ v : Word,
    exec .lfsrStep s = .next { s with pend := none, done := true, lfsr := v, dout := v } ∧
    (∀ i, i < 31 → v.getLsbD i = s.lfsr.getLsbD (i + 1)) ∧
    v.getLsbD 31 = (s.lfsr.getLsbD 0 ^^ s.lfsr.getLsbD 1 ^^ s.lfsr.getLsbD 21 ^^ s.lfsr.getLsbD 31)

/-- R185, R183: the step is a bijection, with the inverse R185 gives; zero is its fixed point. -/
def Obligations.LfsrStepIsInvertible : Prop :=
  (∀ s ns : Word, (lfsrStep s).1 = ns →
    s = ns.extractLsb' 0 31 ++
      BitVec.ofBool (ns.getLsbD 31 ^^ ns.getLsbD 0 ^^ ns.getLsbD 20 ^^ ns.getLsbD 30)) ∧
  Function.Bijective (fun s : Word => (lfsrStep s).1) ∧ lfsrStep 0#32 = (0#32, 0#32)

/-- R182, R186, R181: a schedule of r rounds ends r steps on; and subkey t of it, for t < 16, is `s[t+16 : t+1]`. -/
def Obligations.EarlySubkeysAreSeedBits : Prop :=
  ∀ (s : Word) (r : Nat),
    (subkeys s r).2 = lfsrAfter r s ∧
    ∀ t, t < 16 → t < r → (subkeys s r).1[t]? = some (s.extractLsb' (t + 1) 16)

/-! ### sbox_permutation_rom (43_sbox_permutation_rom.md) -/

/-- R210, R202: KEY_LOAD completes with KEY = DIN0, SBOX the table SBOX_GEN gives for DIN0, which is a permutation, INVSBOX
its inverse, and both valid bits set; nothing else changes. -/
def Obligations.KeyLoadOpensTheSession : Prop :=
  decode 0x01000000#32 = .ok .keyLoad ∧
  ∀ s : State, ∃ p q : Table,
    exec .keyLoad s = .next { s with
      pend := none, done := true, key := s.din0, sbox := p, invSbox := q, keyValid := true, sboxValid := true } ∧
    (∀ i : Fin 16, p[i] = BitVec.ofFin (Config.sboxGen s.din0 i)) ∧ (∀ i j : Fin 16, p[i] = p[j] → i = j) ∧ Undoes p q

/-- R211, R203: SBOX_LOAD of pairwise distinct entries completes with both tables loaded and SBOX_VALID set, KEY and KEY_VALID
unchanged; any other entries raise NOT_PERMUTATION and nothing else changes. -/
def Obligations.SboxLoadTakesOnlyPermutations : Prop :=
  decode 0x02000000#32 = .ok .sboxLoad ∧
  (∀ s : State, HostEntriesDistinct s → ∃ p q : Table,
    exec .sboxLoad s = .next { s with pend := none, done := true, sbox := p, invSbox := q, sboxValid := true } ∧
    (∀ i : Fin 16, p[i] = hostEntry s i) ∧ Undoes p q) ∧
  ∀ s : State, ¬HostEntriesDistinct s → exec .sboxLoad s = .next (failedWith 8#4 s)

/-- R212, R126, R203: SBOX_RD completes with entry `8*HALF + j` of the named table in bits `4j+3 : 4j` of DOUT, and raises
NO_SBOX while SBOX_VALID = 0; the two words of a table, written to DIN0 and DIN1 as they are, are that table again. -/
def Obligations.SboxReadPacksAHalfTable : Prop :=
  (∀ imm : Half, imm.toNat < 4 → decode (BitVec.ofNat 32 (0x03000000 + imm.toNat)) = .ok (.sboxRd imm)) ∧
  (∀ (imm : Half) (s : State), s.sboxValid = true → ∃ v : Word,
    exec (.sboxRd imm) s = .next { s with pend := none, done := true, dout := v } ∧
    ∀ j, j < 8 → (if imm.getLsbD 1 = true then s.invSbox else s.sbox).toList[8 * (imm.getLsbD 0).toNat + j]? =
      some (v.extractLsb' (4 * j) 4)) ∧
  (∀ (imm : Half) (s : State), s.sboxValid = false → exec (.sboxRd imm) s = .next (failedWith 4#4 s)) ∧
  ∀ t : Table, unpackTable (packHalf t false) (packHalf t true) = t

/-- R213, R214, R200: SUBST maps each nibble of DIN0[15:0] in place through SBOX, ISUBST through INVSBOX, into DOUT; both raise
NO_SBOX while SBOX_VALID = 0. -/
def Obligations.SubstMapsEachNibble : Prop :=
  decode 0x30000000#32 = .ok .subst ∧ decode 0x31000000#32 = .ok .isubst ∧
  (∀ s : State, s.sboxValid = true → ∃ y : Half,
    exec .subst s = .next { s with pend := none, done := true, dout := y.setWidth 32 } ∧
    ∀ j, j < 4 → s.sbox.toList[(s.din0.extractLsb' (4 * j) 4).toNat]? = some (y.extractLsb' (4 * j) 4)) ∧
  (∀ s : State, s.sboxValid = true → ∃ y : Half,
    exec .isubst s = .next { s with pend := none, done := true, dout := y.setWidth 32 } ∧
    ∀ j, j < 4 → s.invSbox.toList[(s.din0.extractLsb' (4 * j) 4).toNat]? = some (y.extractLsb' (4 * j) 4)) ∧
  ∀ s : State, s.sboxValid = false →
    exec .subst s = .next (failedWith 4#4 s) ∧ exec .isubst s = .next (failedWith 4#4 s)

/-- R215, R53: in a session, substitution through SBOX and through INVSBOX undo each other, for every 16-bit value. The
session invariant is the premise; `EveryStepKeepsTheInvariant` states it. -/
def Obligations.SubstitutionsUndoEachOther : Prop :=
  ∀ (s : State) (x : Half), SessionConsistent s → s.sboxValid = true →
    substitute (substitute x s.sbox) s.invSbox = x ∧ substitute (substitute x s.invSbox) s.sbox = x

/-! ### pbox_bit_permute (44_pbox_bit_permute.md) -/

/-- R235, R236, R230, R231: PERM moves bit i of DIN0[15:0] to position `(3i) mod 16` of DOUT, IPERM to position `INV[i]`;
DOUT[31:16] is 0. -/
def Obligations.PermMovesEachBit : Prop :=
  decode 0x40000000#32 = .ok .perm ∧ decode 0x41000000#32 = .ok .iperm ∧
  (∀ s : State, ∃ y : Half, exec .perm s = .next { s with pend := none, done := true, dout := y.setWidth 32 } ∧
    ∀ i, i < 16 → y.getLsbD ((3 * i) % 16) = s.din0.getLsbD i) ∧
  ∀ s : State, ∃ y : Half, exec .iperm s = .next { s with pend := none, done := true, dout := y.setWidth 32 } ∧
    ∀ i, i < 16 → y.getLsbD ([0, 11, 6, 1, 12, 7, 2, 13, 8, 3, 14, 9, 4, 15, 10, 5].getD i 0) = s.din0.getLsbD i

/-- R232: the two maps undo each other, `permute` has order 4 and is no involution, bits 0 and 8 stay, and the number of 1
bits is kept. -/
def Obligations.PermutationLaws : Prop :=
  (∀ x : Half,
    inversePermute (permute x) = x ∧ permute (inversePermute x) = x ∧
    (∀ i, i < 16 → (permute (permute x)).getLsbD ((9 * i) % 16) = x.getLsbD i) ∧
    permute (permute (permute (permute x))) = x ∧
    (permute x).getLsbD 0 = x.getLsbD 0 ∧ (permute x).getLsbD 8 = x.getLsbD 8 ∧
    (inversePermute x).getLsbD 0 = x.getLsbD 0 ∧ (inversePermute x).getLsbD 8 = x.getLsbD 8 ∧
    onesIn (permute x) = onesIn x ∧ onesIn (inversePermute x) = onesIn x) ∧
  permute (permute 0x0002#16) = 0x0200#16

/-! ### The round function and single rounds (45_feistel_round_engine.md) -/

/-- R255, R256, R257, R250 to R252: the three round commands complete with F, one encryption round and one decryption round of
DIN0 under the immediate subkey; they raise NO_SBOX while SBOX_VALID = 0. -/
def Obligations.RoundCommandsApplyOneRound : Prop :=
  (∀ k : Half, decode (BitVec.ofNat 32 (0x50000000 + k.toNat)) = .ok (.roundf k) ∧
    decode (BitVec.ofNat 32 (0x51000000 + k.toNat)) = .ok (.encRound k) ∧
    decode (BitVec.ofNat 32 (0x52000000 + k.toNat)) = .ok (.decRound k)) ∧
  (∀ (k : Half) (s : State), s.sboxValid = true →
    exec (.roundf k) s = .next { s with
      pend := none, done := true
      dout := (permute (substitute (s.din0.extractLsb' 0 16) s.sbox) ^^^ k).setWidth 32 } ∧
    exec (.encRound k) s = .next { s with
      pend := none, done := true
      dout := s.din0.extractLsb' 0 16 ++
        (s.din0.extractLsb' 16 16 ^^^ (permute (substitute (s.din0.extractLsb' 0 16) s.sbox) ^^^ k)) } ∧
    exec (.decRound k) s = .next { s with
      pend := none, done := true
      dout := (s.din0.extractLsb' 0 16 ^^^ (permute (substitute (s.din0.extractLsb' 16 16) s.sbox) ^^^ k)) ++
        s.din0.extractLsb' 16 16 }) ∧
  ∀ (k : Half) (s : State), s.sboxValid = false →
    exec (.roundf k) s = .next (failedWith 4#4 s) ∧ exec (.encRound k) s = .next (failedWith 4#4 s) ∧
    exec (.decRound k) s = .next (failedWith 4#4 s)

/-- R253: one round undoes the other, for every block, subkey and table. -/
def Obligations.RoundsUndoEachOther : Prop :=
  ∀ (t : Table) (b : Word) (k : Half), decRound t (encRound t b k) k = b ∧ encRound t (decRound t b k) k = b

/-! ### feistel_encrypt_4round and feistel_decrypt_4round (46_feistel_block.md) -/

/-- R275, R276, R46: with loaded tables and a legal round count, ENC_BLK and DEC_BLK complete with the block function's result
in DOUT, its final state in LFSR and its subkeys in SKLOG, zero beyond ROUNDS; nothing else changes. Without tables they raise
NO_SBOX, and with an illegal round count BAD_ROUNDS. -/
def Obligations.BlockCommandsRunTheCipher : Prop :=
  decode 0x60000000#32 = .ok .encBlk ∧ decode 0x61000000#32 = .ok .decBlk ∧
  (∀ s : State, s.sboxValid = true → RoundsLegal s →
    (∃ log : Vector Half 16, exec .encBlk s = .next { s with
        pend := none, done := true
        dout := (encryptBlock s.sbox s.din0 s.lfsr s.rounds.toNat).1
        lfsr := (encryptBlock s.sbox s.din0 s.lfsr s.rounds.toNat).2.1
        sklog := log } ∧
      ∀ i : Fin 16, log[i] = if i.val < s.rounds.toNat
        then (encryptBlock s.sbox s.din0 s.lfsr s.rounds.toNat).2.2.getD i.val 0#16 else 0#16) ∧
    (∃ log : Vector Half 16, exec .decBlk s = .next { s with
        pend := none, done := true
        dout := (decryptBlock s.sbox s.din0 s.lfsr s.rounds.toNat).1
        lfsr := (decryptBlock s.sbox s.din0 s.lfsr s.rounds.toNat).2.1
        sklog := log } ∧
      ∀ i : Fin 16, log[i] = if i.val < s.rounds.toNat
        then (decryptBlock s.sbox s.din0 s.lfsr s.rounds.toNat).2.2.getD i.val 0#16 else 0#16)) ∧
  (∀ s : State, s.sboxValid = false →
    exec .encBlk s = .next (failedWith 4#4 s) ∧ exec .decBlk s = .next (failedWith 4#4 s)) ∧
  ∀ s : State, s.sboxValid = true → ¬RoundsLegal s →
    exec .encBlk s = .next (failedWith 6#4 s) ∧ exec .decBlk s = .next (failedWith 6#4 s)

/-- R270, R271, R181: the block functions round by round. Encryption applies its subkeys in generation order, decryption in
reverse, and both log them in generation order; subkey i is the low half of the state i + 1 steps on. -/
def Obligations.BlockFunctionsGoRoundByRound : Prop :=
  (∀ (t : Table) (b s : Word), encryptBlock t b s 0 = (b, s, []) ∧ decryptBlock t b s 0 = (b, s, [])) ∧
  ∀ (t : Table) (b s : Word) (r : Nat),
    encryptBlock t b s (r + 1) =
      (encRound t (encryptBlock t b s r).1 ((lfsrAfter (r + 1) s).extractLsb' 0 16), lfsrAfter (r + 1) s,
        (encryptBlock t b s r).2.2 ++ [(lfsrAfter (r + 1) s).extractLsb' 0 16]) ∧
    decryptBlock t b s (r + 1) =
      ((decryptBlock t (decRound t b ((lfsrAfter (r + 1) s).extractLsb' 0 16)) s r).1, lfsrAfter (r + 1) s,
        (decryptBlock t b s r).2.2 ++ [(lfsrAfter (r + 1) s).extractLsb' 0 16])

/-- R272, R273: the block functions undo each other for every block, state, round count and table, with the same final state
and the same subkeys; so each is a bijection on blocks. -/
def Obligations.BlockDecryptionUndoesEncryption : Prop :=
  ∀ (t : Table) (s : Word) (r : Nat),
    (∀ b : Word, (decryptBlock t (encryptBlock t b s r).1 s r).1 = b ∧
      (encryptBlock t (decryptBlock t b s r).1 s r).1 = b ∧
      (decryptBlock t (encryptBlock t b s r).1 s r).2 = (encryptBlock t b s r).2) ∧
    Function.Bijective (fun b => (encryptBlock t b s r).1)

/-- R278: the known vector: from seed 1 and 4 rounds every subkey is 0 and the final state is 0xF0000000, whatever the table;
with table TA of 95_test_vectors.md the block 0 encrypts to 0xAAAABBBB, and with table ID to 0. -/
def Obligations.KnownVectorHasZeroSubkeys : Prop :=
  (∀ t : Table, (encryptBlock t 0x00000000#32 0x00000001#32 4).2 = (0xF0000000#32, [0#16, 0#16, 0#16, 0#16])) ∧
  (encryptBlock (unpackTable 0xE2705C46#32 0xB9A8D3F1#32) 0x00000000#32 0x00000001#32 4).1 = 0xAAAABBBB#32 ∧
  (encryptBlock (unpackTable 0x76543210#32 0xFEDCBA98#32) 0x00000000#32 0x00000001#32 4).1 = 0x00000000#32

/-- R277, R294, R295: a host that sets LFSR and issues ENC_BLK (or DEC_BLK) for block after block, DIN0 reloaded in between,
sees the blocks of the message chain, and the chain's last state in LFSR. -/
def Obligations.HostChainingMatchesTheMessageChain : Prop :=
  ∀ (s : State) (bs : List Word), s.sboxValid = true → RoundsLegal s →
    (∃ t, hostChain .encBlk bs s =
        some ((chain (fun b x => encryptBlock s.sbox b x s.rounds.toNat) bs s.lfsr []).1, t) ∧
      t.lfsr = (chain (fun b x => encryptBlock s.sbox b x s.rounds.toNat) bs s.lfsr []).2.1) ∧
    ∃ t, hostChain .decBlk bs s =
        some ((chain (fun b x => decryptBlock s.sbox b x s.rounds.toNat) bs s.lfsr []).1, t) ∧
      t.lfsr = (chain (fun b x => decryptBlock s.sbox b x s.rounds.toNat) bs s.lfsr []).2.1

/-! ### block_chaining_fsm (47_block_chaining_fsm.md) -/

/-- R290, R291, R299: `pad` appends 1 to 4 bytes, each of the value of their number, up to the next multiple of 4, and
`unpad` takes them off again; `unpad` fails exactly on an input that does not end in n bytes of value n for an n in 1..4, and
otherwise strips those n bytes. -/
def Obligations.PaddingIsRecognisedExactly : Prop :=
  (∀ d : List Byte,
    (∃ n, 1 ≤ n ∧ n ≤ 4 ∧ n = 4 - d.length % 4 ∧ pad d = d ++ List.replicate n (BitVec.ofNat 8 n)) ∧
    (pad d).length = 4 * (d.length / 4 + 1) ∧ unpad (pad d) = some d) ∧
  (∀ d : List Byte, unpad d = none ↔
    ∀ n : Nat, 1 ≤ n → n ≤ 4 → ¬∃ e, d = e ++ List.replicate n (BitVec.ofNat 8 n)) ∧
  ∀ d e : List Byte, unpad d = some e →
    ∃ n : Nat, 1 ≤ n ∧ n ≤ 4 ∧ d = e ++ List.replicate n (BitVec.ofNat 8 n)

/-- R292, R293: block k of `to_blocks` is bytes 4k to 4k+3, the first in bits 31:24, for every k below len/4; bytes 4k to 4k+3
of `to_bytes` are those of block k, bits 31:24 first; and the two conversions undo each other. -/
def Obligations.BlocksAndBytesUndoEachOther : Prop :=
  (∀ d : List Byte, d.length % 4 = 0 → toBytes (toBlocks d) = d ∧ (toBlocks d).length = d.length / 4) ∧
  (∀ b : List Word, toBlocks (toBytes b) = b ∧ (toBytes b).length = 4 * b.length) ∧
  (∀ (d : List Byte) (k : Nat) (b0 b1 b2 b3 : Byte), d.length % 4 = 0 → d[4 * k]? = some b0 → d[4 * k + 1]? = some b1 →
    d[4 * k + 2]? = some b2 → d[4 * k + 3]? = some b3 → (toBlocks d)[k]? = some (b0 ++ b1 ++ b2 ++ b3)) ∧
  ∀ (b : List Word) (k : Nat) (v : Word), b[k]? = some v →
    (toBytes b)[4 * k]? = some (v.extractLsb' 24 8) ∧ (toBytes b)[4 * k + 1]? = some (v.extractLsb' 16 8) ∧
    (toBytes b)[4 * k + 2]? = some (v.extractLsb' 8 8) ∧ (toBytes b)[4 * k + 3]? = some (v.extractLsb' 0 8)

/-- R300, R294, R295: the state that enters block k of a message is the key k * ROUNDS steps on, whatever the data; so
ciphertext block k depends only on plaintext block k, the key, k, ROUNDS and the table, and so does decrypted block k on
ciphertext block k. -/
def Obligations.EachBlockIsCipheredOnItsOwn : Prop :=
  (∀ (t : Table) (m : List Byte) (key : Word) (r k : Nat) (b : Word), (toBlocks (pad m))[k]? = some b →
    (toBlocks (encryptMessage t m key r).1)[k]? = some (encryptBlock t b (lfsrAfter (k * r) key) r).1) ∧
  ∀ (t : Table) (c : List Byte) (key : Word) (r k : Nat) (b : Word), c.length % 4 = 0 → (toBlocks c)[k]? = some b →
    (toBlocks (decryptMessage t c key r).1)[k]? = some (decryptBlock t b (lfsrAfter (k * r) key) r).1

/-- R296, R89, R294: with a session, a legal round count and a message that fits, ENC_MSG completes with the encryption of a
message read from IBUF in OBUF, its length in OUT_LEN, the final state in LFSR and the last block's subkeys in SKLOG; the OBUF
bytes beyond it and all other state are unchanged (the model's own count of draws apart). -/
def Obligations.EncMsgEncryptsTheMessage : Prop :=
  decode 0x70000000#32 = .ok .encMsg ∧
  (∀ s : State, s.sboxValid = true → s.keyValid = true → RoundsLegal s → s.msgLen.toNat ≤ s.cfg.msgMaxBytes →
    ∃ m t, ReadsMessage s m ∧ exec .encMsg s = .next t ∧ Completed t ∧ NoErrorRaised s t ∧
      (encryptMessage s.sbox m s.key s.rounds.toNat).1.length = 4 * (s.msgLen.toNat / 4 + 1) ∧
      HoldsBytes t.obuf (encryptMessage s.sbox m s.key s.rounds.toNat).1 ∧
      SameBytesFrom (4 * (s.msgLen.toNat / 4 + 1)) s.obuf t.obuf ∧
      t.outLen.toNat = 4 * (s.msgLen.toNat / 4 + 1) ∧
      t.lfsr = (encryptMessage s.sbox m s.key s.rounds.toNat).2.1 ∧
      (∀ i : Fin 16, t.sklog[i] = if i.val < s.rounds.toNat
        then (encryptMessage s.sbox m s.key s.rounds.toNat).2.2.getD i.val 0#16 else 0#16) ∧
      t.dout = s.dout ∧ SameBytes s.ibuf t.ibuf ∧ SameSession s t ∧ SameOperands s t ∧ SameSurroundings s t) ∧
  ∀ (s : State) (c : BitVec 4), earlyError .encMsg s = some c → exec .encMsg s = .next (failedWith c s)

/-- R297, R89, R295: with a session, a legal round count and a ciphertext that fits and is a positive multiple of 4 long,
DEC_MSG completes with the decrypted, still padded bytes in OBUF, the final state in LFSR and the last block's subkeys in
SKLOG; OUT_LEN is the length of the unpadded message, or 0 with a late INVALID_PADDING where `unpad` fails; all other state is
unchanged (the model's own count of draws apart). -/
def Obligations.DecMsgDecryptsTheMessage : Prop :=
  decode 0x71000000#32 = .ok .decMsg ∧
  (∀ s : State, s.sboxValid = true → s.keyValid = true → RoundsLegal s → s.msgLen.toNat ≤ s.cfg.msgMaxBytes →
    s.msgLen.toNat % 4 = 0 → s.msgLen.toNat ≠ 0 →
    ∃ m t, ReadsMessage s m ∧ exec .decMsg s = .next t ∧ Completed t ∧
      (decryptMessage s.sbox m s.key s.rounds.toNat).1.length = s.msgLen.toNat ∧
      HoldsBytes t.obuf (decryptMessage s.sbox m s.key s.rounds.toNat).1 ∧
      SameBytesFrom s.msgLen.toNat s.obuf t.obuf ∧
      (decryptMessage s.sbox m s.key s.rounds.toNat).2.1 =
        unpad (decryptMessage s.sbox m s.key s.rounds.toNat).1 ∧
      t.lfsr = (decryptMessage s.sbox m s.key s.rounds.toNat).2.2.1 ∧
      (∀ i : Fin 16, t.sklog[i] = if i.val < s.rounds.toNat
        then (decryptMessage s.sbox m s.key s.rounds.toNat).2.2.2.getD i.val 0#16 else 0#16) ∧
      (∀ e, unpad (decryptMessage s.sbox m s.key s.rounds.toNat).1 = some e →
        NoErrorRaised s t ∧ t.outLen.toNat = e.length ∧ s.msgLen.toNat - 4 ≤ e.length ∧ e.length < s.msgLen.toNat) ∧
      (unpad (decryptMessage s.sbox m s.key s.rounds.toNat).1 = none →
        t.err = true ∧ t.errCode = 1#4 ∧ t.outLen = 0#32) ∧
      t.dout = s.dout ∧ SameBytes s.ibuf t.ibuf ∧ SameSession s t ∧ SameOperands s t ∧ SameSurroundings s t) ∧
  ∀ (s : State) (c : BitVec 4), earlyError .decMsg s = some c → exec .decMsg s = .next (failedWith c s)

/-- R298, at the level of the message functions: for every table, message, key and round count, decrypting the encryption
gives the message back, and both end in the same LFSR state. -/
def Obligations.MessageDecryptionUndoesEncryption : Prop :=
  ∀ (t : Table) (m : List Byte) (key : Word) (r : Nat),
    (decryptMessage t (encryptMessage t m key r).1 key r).1 = pad m ∧
    (decryptMessage t (encryptMessage t m key r).1 key r).2.1 = some m ∧
    (decryptMessage t (encryptMessage t m key r).1 key r).2.2 = (encryptMessage t m key r).2

/-- R298, at the level of the machine: after an ENC_MSG in a session, a host that copies the OUT_LEN bytes of OBUF to IBUF,
where they fit (notes/assumptions/13.md), and sets MSG_LEN = OUT_LEN gets from DEC_MSG, with no error, the original length in OUT_LEN, the original
message in OBUF, and the LFSR value of the ENC_MSG. -/
def Obligations.EncryptCopyDecryptReturnsTheMessage : Prop :=
  ∀ s : State, s.sboxValid = true → s.keyValid = true → RoundsLegal s → s.msgLen.toNat ≤ s.cfg.msgMaxBytes →
    ∃ m t, ReadsMessage s m ∧ exec .encMsg s = .next t ∧
      ∀ ib : Memory, t.outLen.toNat ≤ s.cfg.msgMaxBytes →
        (∀ a, a < t.outLen.toNat → Memory.byte? ib a = Memory.byte? t.obuf a) →
          ∃ u, exec .decMsg { t with ibuf := ib, msgLen := t.outLen } = .next u ∧ NoErrorRaised t u ∧
            u.outLen = s.msgLen ∧ HoldsBytes u.obuf m ∧ u.lfsr = t.lfsr

/-! ### Frames (10_state.md R57, 40_command_model.md R153) -/

/-- R57, R153, R43, R333: SBOX_RD, ROTL16, SUBST, ISUBST, PERM, IPERM, ROUNDF, ENC_ROUND and DEC_ROUND write DOUT and the
completion only; where one raises an error, DOUT is unchanged too. -/
def Obligations.DoutCommandsFrame : Prop :=
  ∀ (i : Instr) (s t : State), WritesOnlyDout i → exec i s = .next t →
    Completed t ∧ t.lfsr = s.lfsr ∧ t.sklog = s.sklog ∧ t.outLen = s.outLen ∧ SameSession s t ∧ SameOperands s t ∧
      SameSurroundings s t ∧ SameBytes s.ibuf t.ibuf ∧ SameBytes s.obuf t.obuf ∧
      (NoErrorRaised s t ∨ (t.err = true ∧ t.dout = s.dout))

/-- R57, R153, R364: NOP, KEY_LOAD and SBOX_LOAD write no data register, no log and no buffer; NOP writes no session state and
SBOX_LOAD neither KEY nor KEY_VALID. -/
def Obligations.SessionCommandsFrame : Prop :=
  ∀ (i : Instr) (s t : State), i = .nop ∨ i = .keyLoad ∨ i = .sboxLoad → exec i s = .next t →
    Completed t ∧ t.dout = s.dout ∧ t.lfsr = s.lfsr ∧ t.sklog = s.sklog ∧ t.outLen = s.outLen ∧ SameOperands s t ∧
      SameSurroundings s t ∧ SameBytes s.ibuf t.ibuf ∧ SameBytes s.obuf t.obuf ∧
      (i = .nop → SameSession s t) ∧ (i = .sboxLoad → t.key = s.key ∧ t.keyValid = s.keyValid) ∧
      (NoErrorRaised s t ∨ (t.err = true ∧ SameSession s t))

/-- R57, R153: LFSR_STEP, ENC_BLK and DEC_BLK write DOUT, LFSR and the completion, the block commands SKLOG too, and nothing
else; where one raises an error these are unchanged too. -/
def Obligations.LfsrAndBlockCommandsFrame : Prop :=
  ∀ (i : Instr) (s t : State), i = .lfsrStep ∨ i = .encBlk ∨ i = .decBlk → exec i s = .next t →
    Completed t ∧ t.outLen = s.outLen ∧ SameSession s t ∧ SameOperands s t ∧ SameSurroundings s t ∧
      SameBytes s.ibuf t.ibuf ∧ SameBytes s.obuf t.obuf ∧ (i = .lfsrStep → t.sklog = s.sklog) ∧
      (NoErrorRaised s t ∨ (t.err = true ∧ t.dout = s.dout ∧ t.lfsr = s.lfsr ∧ t.sklog = s.sklog))

/-- R57, R153, R89: ENC_MSG and DEC_MSG leave DOUT, the operands, the session and IBUF unchanged, and every OBUF byte beyond
the bytes they store: 4 * (MSG_LEN div 4 + 1) of them from index 0 for ENC_MSG, MSG_LEN for DEC_MSG. -/
def Obligations.MessageCommandsFrame : Prop :=
  ∀ (i : Instr) (s t : State), i = .encMsg ∨ i = .decMsg → exec i s = .next t →
    Completed t ∧ t.dout = s.dout ∧ SameSession s t ∧ SameOperands s t ∧ SameSurroundings s t ∧ SameBytes s.ibuf t.ibuf ∧
      SameBytesFrom (if i = .encMsg then 4 * (s.msgLen.toNat / 4 + 1) else s.msgLen.toNat) s.obuf t.obuf
end

