-- ==== Sys2Proof/Laws/Bits.lean ====
section
/-! SUPPORT. The bits of the packed words: one lemma for each way a rule puts fields together or takes them apart, so that
no proof unfolds an append. -/

namespace Sys2Proof

/-- The bits of `{OPC, 0x00, IMM}` (R121). -/
theorem getLsbD_assembleWord (opc : BitVec 8) (imm : Half) (i : Nat) :
    (assembleWord opc imm).getLsbD i =
      if i < 16 then imm.getLsbD i else if i < 24 then false else opc.getLsbD (i - 24) := by
  have h : (assembleWord opc imm).getLsbD i = if i < 16 then imm.getLsbD i else (opc ++ 0#8).getLsbD (i - 16) :=
    BitVec.getLsbD_append
  rw [h]
  split
  · rfl
  · rw [BitVec.getLsbD_append]
    by_cases h24 : i < 24
    · simp [h24, show i - 16 < 8 by omega]
    · simp [h24, show ¬i - 16 < 8 by omega, Nat.sub_sub]

@[simp] theorem opcField_assembleWord (opc : BitVec 8) (imm : Half) : opcField (assembleWord opc imm) = opc := by
  apply BitVec.eq_of_getLsbD_eq
  intro i hi
  rw [opcField, BitVec.getLsbD_extractLsb', getLsbD_assembleWord]
  simp [hi, show ¬24 + i < 16 by omega, show ¬24 + i < 24 by omega]

@[simp] theorem rsvField_assembleWord (opc : BitVec 8) (imm : Half) : rsvField (assembleWord opc imm) = 0#8 := by
  apply BitVec.eq_of_getLsbD_eq
  intro i hi
  rw [rsvField, BitVec.getLsbD_extractLsb', getLsbD_assembleWord]
  simp [show ¬16 + i < 16 by omega, show 16 + i < 24 by omega]

@[simp] theorem immField_assembleWord (opc : BitVec 8) (imm : Half) : immField (assembleWord opc imm) = imm := by
  apply BitVec.eq_of_getLsbD_eq
  intro i hi
  rw [immField, BitVec.getLsbD_extractLsb', getLsbD_assembleWord]
  simp [hi]

/-- A word is its OPC, its RSV and its IMM (R121). -/
theorem word_of_fields (w : Word) (h : rsvField w = 0#8) : assembleWord (opcField w) (immField w) = w := by
  apply BitVec.eq_of_getLsbD_eq
  intro i hi
  rw [getLsbD_assembleWord]
  split
  · next h16 => simp [immField, h16]
  · split
    · next h16 h24 =>
      have hz := congrArg (fun x => x.getLsbD (i - 16)) h
      simp only [rsvField, BitVec.getLsbD_extractLsb', show i - 16 < 8 by omega, decide_true, Bool.true_and,
        show 16 + (i - 16) = i by omega, BitVec.getLsbD_zero] at hz
      exact hz.symm
    · simp [opcField, show i - 24 < 8 by omega, show 24 + (i - 24) = i by omega]

/-- The selector of format S has two bits (R121). -/
theorem selectorLegal_bits (imm : Half) (h : selectorLegal imm = true) (k : Nat) (hk : 2 ≤ k) :
    imm.getLsbD k = false := by
  have h' : imm.extractLsb' 2 14 = 0#14 := by simpa [selectorLegal] using h
  by_cases h16 : k < 16
  · have hz := congrArg (fun x => x.getLsbD (k - 2)) h'
    simpa only [BitVec.getLsbD_extractLsb', show k - 2 < 14 by omega, decide_true, Bool.true_and,
      show 2 + (k - 2) = k by omega, BitVec.getLsbD_zero] using hz
  · exact BitVec.getLsbD_of_ge imm k (by omega)

namespace Machine

theorem getLsbD_highHalf (b : Word) (i : Nat) : (highHalf b).getLsbD i = (decide (i < 16) && b.getLsbD (16 + i)) := by
  simp [highHalf]

theorem getLsbD_lowHalf (b : Word) (i : Nat) : (lowHalf b).getLsbD i = (decide (i < 16) && b.getLsbD i) := by
  simp [lowHalf]

/-- The bits of `{L, R}` (R17). -/
theorem getLsbD_joinHalves (l r : Half) (i : Nat) :
    (joinHalves l r).getLsbD i = if i < 16 then r.getLsbD i else l.getLsbD (i - 16) :=
  BitVec.getLsbD_append

@[simp] theorem highHalf_join (l r : Half) : highHalf (joinHalves l r) = l := by
  apply BitVec.eq_of_getLsbD_eq
  intro i hi
  rw [getLsbD_highHalf, getLsbD_joinHalves]
  simp [hi, show ¬16 + i < 16 by omega]

@[simp] theorem lowHalf_join (l r : Half) : lowHalf (joinHalves l r) = r := by
  apply BitVec.eq_of_getLsbD_eq
  intro i hi
  rw [getLsbD_lowHalf, getLsbD_joinHalves]
  simp [hi]

@[simp] theorem join_halves (b : Word) : joinHalves (highHalf b) (lowHalf b) = b := by
  apply BitVec.eq_of_getLsbD_eq
  intro i hi
  rw [getLsbD_joinHalves, getLsbD_highHalf, getLsbD_lowHalf]
  split
  · next h => simp [h]
  · simp [show i - 16 < 16 by omega, show 16 + (i - 16) = i by omega]

/-- The nibbles of a substituted half: each in its place (R200). -/
theorem nibble_substitute (x : Half) (t : Table) (j : Nat) (hj : j < 4) :
    nibbleOfHalf (substitute x t) j = look t (nibbleOfHalf x j) := by
  have bit : ∀ (a b c d : Nibble) (i : Nat), (a ++ b ++ c ++ d : BitVec (4 + 4 + 4 + 4)).getLsbD i =
      if i < 4 then d.getLsbD i else if i < 8 then c.getLsbD (i - 4) else if i < 12 then b.getLsbD (i - 8)
        else a.getLsbD (i - 12) := by
    intro a b c d i
    rw [BitVec.getLsbD_append]
    split
    · rfl
    · rw [BitVec.getLsbD_append]
      by_cases h8 : i < 8
      · simp [h8, show i - 4 < 4 by omega]
      · rw [if_neg (by omega), if_neg h8, BitVec.getLsbD_append]
        by_cases h12 : i < 12
        · simp [h12, Nat.sub_sub]; omega
        · simp [h12, Nat.sub_sub]; omega
  have bits : ∀ i, (substitute x t).getLsbD i = _ := bit _ _ _ _
  apply BitVec.eq_of_getLsbD_eq
  intro i hi
  rw [show nibbleOfHalf (substitute x t) j = (substitute x t).extractLsb' (4 * j) 4 from rfl,
    BitVec.getLsbD_extractLsb', bits]
  have : j = 0 ∨ j = 1 ∨ j = 2 ∨ j = 3 := by omega
  rcases this with rfl | rfl | rfl | rfl
  · simp [hi]
  · simp [hi, show ¬4 + i < 4 by omega, show 4 + i < 8 by omega]
  · simp [hi, show ¬8 + i < 4 by omega, show ¬8 + i < 8 by omega, show 8 + i < 12 by omega]
  · simp [hi, show ¬12 + i < 4 by omega, show ¬12 + i < 8 by omega, show ¬12 + i < 12 by omega]

/-- Two halves with the same nibbles are equal. -/
theorem half_eq_of_nibbles (x y : Half) (h : ∀ j, j < 4 → nibbleOfHalf x j = nibbleOfHalf y j) : x = y := by
  apply BitVec.eq_of_getLsbD_eq
  intro i hi
  have hz := congrArg (fun n => n.getLsbD (i % 4)) (h (i / 4) (by omega))
  simpa [nibbleOfHalf, show i % 4 < 4 by omega, show 4 * (i / 4) + i % 4 = i by omega] using hz

/-- The bits of a big-endian word of four bytes (R83). -/
theorem getLsbD_wordOfBytes (b0 b1 b2 b3 : Byte) (i : Nat) :
    (wordOfBytes b0 b1 b2 b3).getLsbD i =
      if i < 8 then b3.getLsbD i else if i < 16 then b2.getLsbD (i - 8) else if i < 24 then b1.getLsbD (i - 16)
        else b0.getLsbD (i - 24) := by
  have h : (wordOfBytes b0 b1 b2 b3).getLsbD i = if i < 8 then b3.getLsbD i else (b0 ++ b1 ++ b2).getLsbD (i - 8) :=
    BitVec.getLsbD_append
  rw [h]
  split
  · rfl
  · rw [BitVec.getLsbD_append]
    by_cases h16 : i < 16
    · simp [h16, show i - 8 < 8 by omega]
    · rw [if_neg (by omega), if_neg h16, BitVec.getLsbD_append]
      by_cases h24 : i < 24
      · simp [h24, Nat.sub_sub]; omega
      · simp [h24, Nat.sub_sub]; omega

/-- The four bytes of a word give the word again (R83, R293). -/
theorem wordOfBytes_bytes (v : Word) :
    wordOfBytes (v.extractLsb' 24 8) (v.extractLsb' 16 8) (v.extractLsb' 8 8) (v.extractLsb' 0 8) = v := by
  apply BitVec.eq_of_getLsbD_eq
  intro i hi
  rw [getLsbD_wordOfBytes]
  split
  · next h => simp [h]
  · split
    · next h1 h2 => simp [show i - 8 < 8 by omega, show 8 + (i - 8) = i by omega]
    · split
      · next h1 h2 h3 => simp [show i - 16 < 8 by omega, show 16 + (i - 16) = i by omega]
      · next h1 h2 h3 => simp [show i - 24 < 8 by omega, show 24 + (i - 24) = i by omega]

/-- The bytes of a word of four bytes (R83, R293). -/
theorem bytesOfWord_word (b0 b1 b2 b3 : Byte) : bytesOfWord (wordOfBytes b0 b1 b2 b3) = [b0, b1, b2, b3] := by
  have byte : ∀ (k : Nat) (b : Byte),
      (∀ i, i < 8 → (wordOfBytes b0 b1 b2 b3).getLsbD (k + i) = b.getLsbD i) →
        (wordOfBytes b0 b1 b2 b3).extractLsb' k 8 = b := by
    intro k b h
    apply BitVec.eq_of_getLsbD_eq
    intro i hi
    rw [BitVec.getLsbD_extractLsb', h i hi]
    simp [hi]
  unfold bytesOfWord
  rw [byte 24 b0, byte 16 b1, byte 8 b2, byte 0 b3]
  all_goals intro i hi; rw [getLsbD_wordOfBytes]
  · simp [hi]
  · simp [show ¬8 + i < 8 by omega, show 8 + i < 16 by omega]
  · simp [show ¬16 + i < 8 by omega, show ¬16 + i < 16 by omega, show 16 + i < 24 by omega]
  · simp [show ¬24 + i < 8 by omega, show ¬24 + i < 16 by omega, show ¬24 + i < 24 by omega]

end Machine

end Sys2Proof
end

