-- ==== Sys2Proof/Laws/State.lean ====
section
/-! SUPPORT. What each named update of the state does to each field: one lemma per field, true by definition, so that no
proof unfolds a record update. -/

namespace Sys2Proof.Machine

@[simp] theorem finish_cfg (s : State) : (finish s).cfg = s.cfg := rfl
@[simp] theorem finish_pend (s : State) : (finish s).pend = none := rfl
@[simp] theorem finish_done (s : State) : (finish s).done = true := rfl
@[simp] theorem finish_err (s : State) : (finish s).err = s.err := rfl
@[simp] theorem finish_errCode (s : State) : (finish s).errCode = s.errCode := rfl
@[simp] theorem finish_keyValid (s : State) : (finish s).keyValid = s.keyValid := rfl
@[simp] theorem finish_sboxValid (s : State) : (finish s).sboxValid = s.sboxValid := rfl
@[simp] theorem finish_cmdOvr (s : State) : (finish s).cmdOvr = s.cmdOvr := rfl
@[simp] theorem finish_wrIgn (s : State) : (finish s).wrIgn = s.wrIgn := rfl
@[simp] theorem finish_lastCmd (s : State) : (finish s).lastCmd = s.lastCmd := rfl
@[simp] theorem finish_rounds (s : State) : (finish s).rounds = s.rounds := rfl
@[simp] theorem finish_lfsr (s : State) : (finish s).lfsr = s.lfsr := rfl
@[simp] theorem finish_din0 (s : State) : (finish s).din0 = s.din0 := rfl
@[simp] theorem finish_din1 (s : State) : (finish s).din1 = s.din1 := rfl
@[simp] theorem finish_dout (s : State) : (finish s).dout = s.dout := rfl
@[simp] theorem finish_msgLen (s : State) : (finish s).msgLen = s.msgLen := rfl
@[simp] theorem finish_outLen (s : State) : (finish s).outLen = s.outLen := rfl
@[simp] theorem finish_sklog (s : State) : (finish s).sklog = s.sklog := rfl
@[simp] theorem finish_ibuf (s : State) : (finish s).ibuf = s.ibuf := rfl
@[simp] theorem finish_obuf (s : State) : (finish s).obuf = s.obuf := rfl
@[simp] theorem finish_key (s : State) : (finish s).key = s.key := rfl
@[simp] theorem finish_sbox (s : State) : (finish s).sbox = s.sbox := rfl
@[simp] theorem finish_invSbox (s : State) : (finish s).invSbox = s.invSbox := rfl
@[simp] theorem finish_host (s : State) : (finish s).host = s.host := rfl
@[simp] theorem finish_sched (s : State) : (finish s).sched = s.sched := rfl
@[simp] theorem finish_draws (s : State) : (finish s).draws = s.draws := rfl

@[simp] theorem raise_cfg (e : ErrKind) (s : State) : (raise e s).cfg = s.cfg := rfl
@[simp] theorem raise_pend (e : ErrKind) (s : State) : (raise e s).pend = none := rfl
@[simp] theorem raise_done (e : ErrKind) (s : State) : (raise e s).done = true := rfl
@[simp] theorem raise_err (e : ErrKind) (s : State) : (raise e s).err = true := rfl
@[simp] theorem raise_errCode (e : ErrKind) (s : State) : (raise e s).errCode = e.code := rfl
@[simp] theorem raise_keyValid (e : ErrKind) (s : State) : (raise e s).keyValid = s.keyValid := rfl
@[simp] theorem raise_sboxValid (e : ErrKind) (s : State) : (raise e s).sboxValid = s.sboxValid := rfl
@[simp] theorem raise_cmdOvr (e : ErrKind) (s : State) : (raise e s).cmdOvr = s.cmdOvr := rfl
@[simp] theorem raise_wrIgn (e : ErrKind) (s : State) : (raise e s).wrIgn = s.wrIgn := rfl
@[simp] theorem raise_lastCmd (e : ErrKind) (s : State) : (raise e s).lastCmd = s.lastCmd := rfl
@[simp] theorem raise_rounds (e : ErrKind) (s : State) : (raise e s).rounds = s.rounds := rfl
@[simp] theorem raise_lfsr (e : ErrKind) (s : State) : (raise e s).lfsr = s.lfsr := rfl
@[simp] theorem raise_din0 (e : ErrKind) (s : State) : (raise e s).din0 = s.din0 := rfl
@[simp] theorem raise_din1 (e : ErrKind) (s : State) : (raise e s).din1 = s.din1 := rfl
@[simp] theorem raise_dout (e : ErrKind) (s : State) : (raise e s).dout = s.dout := rfl
@[simp] theorem raise_msgLen (e : ErrKind) (s : State) : (raise e s).msgLen = s.msgLen := rfl
@[simp] theorem raise_outLen (e : ErrKind) (s : State) : (raise e s).outLen = s.outLen := rfl
@[simp] theorem raise_sklog (e : ErrKind) (s : State) : (raise e s).sklog = s.sklog := rfl
@[simp] theorem raise_ibuf (e : ErrKind) (s : State) : (raise e s).ibuf = s.ibuf := rfl
@[simp] theorem raise_obuf (e : ErrKind) (s : State) : (raise e s).obuf = s.obuf := rfl
@[simp] theorem raise_key (e : ErrKind) (s : State) : (raise e s).key = s.key := rfl
@[simp] theorem raise_sbox (e : ErrKind) (s : State) : (raise e s).sbox = s.sbox := rfl
@[simp] theorem raise_invSbox (e : ErrKind) (s : State) : (raise e s).invSbox = s.invSbox := rfl
@[simp] theorem raise_host (e : ErrKind) (s : State) : (raise e s).host = s.host := rfl
@[simp] theorem raise_sched (e : ErrKind) (s : State) : (raise e s).sched = s.sched := rfl
@[simp] theorem raise_draws (e : ErrKind) (s : State) : (raise e s).draws = s.draws := rfl

@[simp] theorem issue_cfg (w : Word) (s : State) : (issue w s).cfg = s.cfg := rfl
@[simp] theorem issue_pend (w : Word) (s : State) : (issue w s).pend = some w := rfl
@[simp] theorem issue_done (w : Word) (s : State) : (issue w s).done = false := rfl
@[simp] theorem issue_err (w : Word) (s : State) : (issue w s).err = false := rfl
@[simp] theorem issue_errCode (w : Word) (s : State) : (issue w s).errCode = 0#4 := rfl
@[simp] theorem issue_keyValid (w : Word) (s : State) : (issue w s).keyValid = s.keyValid := rfl
@[simp] theorem issue_sboxValid (w : Word) (s : State) : (issue w s).sboxValid = s.sboxValid := rfl
@[simp] theorem issue_cmdOvr (w : Word) (s : State) : (issue w s).cmdOvr = s.cmdOvr := rfl
@[simp] theorem issue_wrIgn (w : Word) (s : State) : (issue w s).wrIgn = s.wrIgn := rfl
@[simp] theorem issue_lastCmd (w : Word) (s : State) : (issue w s).lastCmd = w := rfl
@[simp] theorem issue_rounds (w : Word) (s : State) : (issue w s).rounds = s.rounds := rfl
@[simp] theorem issue_lfsr (w : Word) (s : State) : (issue w s).lfsr = s.lfsr := rfl
@[simp] theorem issue_din0 (w : Word) (s : State) : (issue w s).din0 = s.din0 := rfl
@[simp] theorem issue_din1 (w : Word) (s : State) : (issue w s).din1 = s.din1 := rfl
@[simp] theorem issue_dout (w : Word) (s : State) : (issue w s).dout = s.dout := rfl
@[simp] theorem issue_msgLen (w : Word) (s : State) : (issue w s).msgLen = s.msgLen := rfl
@[simp] theorem issue_outLen (w : Word) (s : State) : (issue w s).outLen = s.outLen := rfl
@[simp] theorem issue_sklog (w : Word) (s : State) : (issue w s).sklog = s.sklog := rfl
@[simp] theorem issue_ibuf (w : Word) (s : State) : (issue w s).ibuf = s.ibuf := rfl
@[simp] theorem issue_obuf (w : Word) (s : State) : (issue w s).obuf = s.obuf := rfl
@[simp] theorem issue_key (w : Word) (s : State) : (issue w s).key = s.key := rfl
@[simp] theorem issue_sbox (w : Word) (s : State) : (issue w s).sbox = s.sbox := rfl
@[simp] theorem issue_invSbox (w : Word) (s : State) : (issue w s).invSbox = s.invSbox := rfl
@[simp] theorem issue_host (w : Word) (s : State) : (issue w s).host = s.host := rfl
@[simp] theorem issue_sched (w : Word) (s : State) : (issue w s).sched = s.sched := rfl
@[simp] theorem issue_draws (w : Word) (s : State) : (issue w s).draws = s.draws := rfl

@[simp] theorem setDout_cfg (v : Word) (s : State) : (setDout v s).cfg = s.cfg := rfl
@[simp] theorem setDout_pend (v : Word) (s : State) : (setDout v s).pend = s.pend := rfl
@[simp] theorem setDout_done (v : Word) (s : State) : (setDout v s).done = s.done := rfl
@[simp] theorem setDout_err (v : Word) (s : State) : (setDout v s).err = s.err := rfl
@[simp] theorem setDout_errCode (v : Word) (s : State) : (setDout v s).errCode = s.errCode := rfl
@[simp] theorem setDout_keyValid (v : Word) (s : State) : (setDout v s).keyValid = s.keyValid := rfl
@[simp] theorem setDout_sboxValid (v : Word) (s : State) : (setDout v s).sboxValid = s.sboxValid := rfl
@[simp] theorem setDout_cmdOvr (v : Word) (s : State) : (setDout v s).cmdOvr = s.cmdOvr := rfl
@[simp] theorem setDout_wrIgn (v : Word) (s : State) : (setDout v s).wrIgn = s.wrIgn := rfl
@[simp] theorem setDout_lastCmd (v : Word) (s : State) : (setDout v s).lastCmd = s.lastCmd := rfl
@[simp] theorem setDout_rounds (v : Word) (s : State) : (setDout v s).rounds = s.rounds := rfl
@[simp] theorem setDout_lfsr (v : Word) (s : State) : (setDout v s).lfsr = s.lfsr := rfl
@[simp] theorem setDout_din0 (v : Word) (s : State) : (setDout v s).din0 = s.din0 := rfl
@[simp] theorem setDout_din1 (v : Word) (s : State) : (setDout v s).din1 = s.din1 := rfl
@[simp] theorem setDout_dout (v : Word) (s : State) : (setDout v s).dout = v := rfl
@[simp] theorem setDout_msgLen (v : Word) (s : State) : (setDout v s).msgLen = s.msgLen := rfl
@[simp] theorem setDout_outLen (v : Word) (s : State) : (setDout v s).outLen = s.outLen := rfl
@[simp] theorem setDout_sklog (v : Word) (s : State) : (setDout v s).sklog = s.sklog := rfl
@[simp] theorem setDout_ibuf (v : Word) (s : State) : (setDout v s).ibuf = s.ibuf := rfl
@[simp] theorem setDout_obuf (v : Word) (s : State) : (setDout v s).obuf = s.obuf := rfl
@[simp] theorem setDout_key (v : Word) (s : State) : (setDout v s).key = s.key := rfl
@[simp] theorem setDout_sbox (v : Word) (s : State) : (setDout v s).sbox = s.sbox := rfl
@[simp] theorem setDout_invSbox (v : Word) (s : State) : (setDout v s).invSbox = s.invSbox := rfl
@[simp] theorem setDout_host (v : Word) (s : State) : (setDout v s).host = s.host := rfl
@[simp] theorem setDout_sched (v : Word) (s : State) : (setDout v s).sched = s.sched := rfl
@[simp] theorem setDout_draws (v : Word) (s : State) : (setDout v s).draws = s.draws := rfl

@[simp] theorem setTables_cfg (t u : Table) (s : State) : (setTables t u s).cfg = s.cfg := rfl
@[simp] theorem setTables_pend (t u : Table) (s : State) : (setTables t u s).pend = s.pend := rfl
@[simp] theorem setTables_done (t u : Table) (s : State) : (setTables t u s).done = s.done := rfl
@[simp] theorem setTables_err (t u : Table) (s : State) : (setTables t u s).err = s.err := rfl
@[simp] theorem setTables_errCode (t u : Table) (s : State) : (setTables t u s).errCode = s.errCode := rfl
@[simp] theorem setTables_keyValid (t u : Table) (s : State) : (setTables t u s).keyValid = s.keyValid := rfl
@[simp] theorem setTables_sboxValid (t u : Table) (s : State) : (setTables t u s).sboxValid = true := rfl
@[simp] theorem setTables_cmdOvr (t u : Table) (s : State) : (setTables t u s).cmdOvr = s.cmdOvr := rfl
@[simp] theorem setTables_wrIgn (t u : Table) (s : State) : (setTables t u s).wrIgn = s.wrIgn := rfl
@[simp] theorem setTables_lastCmd (t u : Table) (s : State) : (setTables t u s).lastCmd = s.lastCmd := rfl
@[simp] theorem setTables_rounds (t u : Table) (s : State) : (setTables t u s).rounds = s.rounds := rfl
@[simp] theorem setTables_lfsr (t u : Table) (s : State) : (setTables t u s).lfsr = s.lfsr := rfl
@[simp] theorem setTables_din0 (t u : Table) (s : State) : (setTables t u s).din0 = s.din0 := rfl
@[simp] theorem setTables_din1 (t u : Table) (s : State) : (setTables t u s).din1 = s.din1 := rfl
@[simp] theorem setTables_dout (t u : Table) (s : State) : (setTables t u s).dout = s.dout := rfl
@[simp] theorem setTables_msgLen (t u : Table) (s : State) : (setTables t u s).msgLen = s.msgLen := rfl
@[simp] theorem setTables_outLen (t u : Table) (s : State) : (setTables t u s).outLen = s.outLen := rfl
@[simp] theorem setTables_sklog (t u : Table) (s : State) : (setTables t u s).sklog = s.sklog := rfl
@[simp] theorem setTables_ibuf (t u : Table) (s : State) : (setTables t u s).ibuf = s.ibuf := rfl
@[simp] theorem setTables_obuf (t u : Table) (s : State) : (setTables t u s).obuf = s.obuf := rfl
@[simp] theorem setTables_key (t u : Table) (s : State) : (setTables t u s).key = s.key := rfl
@[simp] theorem setTables_sbox (t u : Table) (s : State) : (setTables t u s).sbox = t := rfl
@[simp] theorem setTables_invSbox (t u : Table) (s : State) : (setTables t u s).invSbox = u := rfl
@[simp] theorem setTables_host (t u : Table) (s : State) : (setTables t u s).host = s.host := rfl
@[simp] theorem setTables_sched (t u : Table) (s : State) : (setTables t u s).sched = s.sched := rfl
@[simp] theorem setTables_draws (t u : Table) (s : State) : (setTables t u s).draws = s.draws := rfl

@[simp] theorem keyLoadBody_cfg (s : State) : (keyLoadBody s).cfg = s.cfg := rfl
@[simp] theorem keyLoadBody_pend (s : State) : (keyLoadBody s).pend = s.pend := rfl
@[simp] theorem keyLoadBody_done (s : State) : (keyLoadBody s).done = s.done := rfl
@[simp] theorem keyLoadBody_err (s : State) : (keyLoadBody s).err = s.err := rfl
@[simp] theorem keyLoadBody_errCode (s : State) : (keyLoadBody s).errCode = s.errCode := rfl
@[simp] theorem keyLoadBody_keyValid (s : State) : (keyLoadBody s).keyValid = true := rfl
@[simp] theorem keyLoadBody_sboxValid (s : State) : (keyLoadBody s).sboxValid = true := rfl
@[simp] theorem keyLoadBody_cmdOvr (s : State) : (keyLoadBody s).cmdOvr = s.cmdOvr := rfl
@[simp] theorem keyLoadBody_wrIgn (s : State) : (keyLoadBody s).wrIgn = s.wrIgn := rfl
@[simp] theorem keyLoadBody_lastCmd (s : State) : (keyLoadBody s).lastCmd = s.lastCmd := rfl
@[simp] theorem keyLoadBody_rounds (s : State) : (keyLoadBody s).rounds = s.rounds := rfl
@[simp] theorem keyLoadBody_lfsr (s : State) : (keyLoadBody s).lfsr = s.lfsr := rfl
@[simp] theorem keyLoadBody_din0 (s : State) : (keyLoadBody s).din0 = s.din0 := rfl
@[simp] theorem keyLoadBody_din1 (s : State) : (keyLoadBody s).din1 = s.din1 := rfl
@[simp] theorem keyLoadBody_dout (s : State) : (keyLoadBody s).dout = s.dout := rfl
@[simp] theorem keyLoadBody_msgLen (s : State) : (keyLoadBody s).msgLen = s.msgLen := rfl
@[simp] theorem keyLoadBody_outLen (s : State) : (keyLoadBody s).outLen = s.outLen := rfl
@[simp] theorem keyLoadBody_sklog (s : State) : (keyLoadBody s).sklog = s.sklog := rfl
@[simp] theorem keyLoadBody_ibuf (s : State) : (keyLoadBody s).ibuf = s.ibuf := rfl
@[simp] theorem keyLoadBody_obuf (s : State) : (keyLoadBody s).obuf = s.obuf := rfl
@[simp] theorem keyLoadBody_key (s : State) : (keyLoadBody s).key = s.din0 := rfl
@[simp] theorem keyLoadBody_sbox (s : State) : (keyLoadBody s).sbox = sboxGen s.din0 := rfl
@[simp] theorem keyLoadBody_invSbox (s : State) : (keyLoadBody s).invSbox = inverseTable (sboxGen s.din0) := rfl
@[simp] theorem keyLoadBody_host (s : State) : (keyLoadBody s).host = s.host := rfl
@[simp] theorem keyLoadBody_sched (s : State) : (keyLoadBody s).sched = s.sched := rfl
@[simp] theorem keyLoadBody_draws (s : State) : (keyLoadBody s).draws = s.draws := rfl

@[simp] theorem sboxLoadBody_cfg (s : State) : (sboxLoadBody s).cfg = s.cfg := rfl
@[simp] theorem sboxLoadBody_pend (s : State) : (sboxLoadBody s).pend = s.pend := rfl
@[simp] theorem sboxLoadBody_done (s : State) : (sboxLoadBody s).done = s.done := rfl
@[simp] theorem sboxLoadBody_err (s : State) : (sboxLoadBody s).err = s.err := rfl
@[simp] theorem sboxLoadBody_errCode (s : State) : (sboxLoadBody s).errCode = s.errCode := rfl
@[simp] theorem sboxLoadBody_keyValid (s : State) : (sboxLoadBody s).keyValid = s.keyValid := rfl
@[simp] theorem sboxLoadBody_sboxValid (s : State) : (sboxLoadBody s).sboxValid = true := rfl
@[simp] theorem sboxLoadBody_cmdOvr (s : State) : (sboxLoadBody s).cmdOvr = s.cmdOvr := rfl
@[simp] theorem sboxLoadBody_wrIgn (s : State) : (sboxLoadBody s).wrIgn = s.wrIgn := rfl
@[simp] theorem sboxLoadBody_lastCmd (s : State) : (sboxLoadBody s).lastCmd = s.lastCmd := rfl
@[simp] theorem sboxLoadBody_rounds (s : State) : (sboxLoadBody s).rounds = s.rounds := rfl
@[simp] theorem sboxLoadBody_lfsr (s : State) : (sboxLoadBody s).lfsr = s.lfsr := rfl
@[simp] theorem sboxLoadBody_din0 (s : State) : (sboxLoadBody s).din0 = s.din0 := rfl
@[simp] theorem sboxLoadBody_din1 (s : State) : (sboxLoadBody s).din1 = s.din1 := rfl
@[simp] theorem sboxLoadBody_dout (s : State) : (sboxLoadBody s).dout = s.dout := rfl
@[simp] theorem sboxLoadBody_msgLen (s : State) : (sboxLoadBody s).msgLen = s.msgLen := rfl
@[simp] theorem sboxLoadBody_outLen (s : State) : (sboxLoadBody s).outLen = s.outLen := rfl
@[simp] theorem sboxLoadBody_sklog (s : State) : (sboxLoadBody s).sklog = s.sklog := rfl
@[simp] theorem sboxLoadBody_ibuf (s : State) : (sboxLoadBody s).ibuf = s.ibuf := rfl
@[simp] theorem sboxLoadBody_obuf (s : State) : (sboxLoadBody s).obuf = s.obuf := rfl
@[simp] theorem sboxLoadBody_key (s : State) : (sboxLoadBody s).key = s.key := rfl
@[simp] theorem sboxLoadBody_sbox (s : State) : (sboxLoadBody s).sbox = hostTable s := rfl
@[simp] theorem sboxLoadBody_invSbox (s : State) : (sboxLoadBody s).invSbox = inverseTable (hostTable s) := rfl
@[simp] theorem sboxLoadBody_host (s : State) : (sboxLoadBody s).host = s.host := rfl
@[simp] theorem sboxLoadBody_sched (s : State) : (sboxLoadBody s).sched = s.sched := rfl
@[simp] theorem sboxLoadBody_draws (s : State) : (sboxLoadBody s).draws = s.draws := rfl

@[simp] theorem lfsrStepBody_cfg (s : State) : (lfsrStepBody s).cfg = s.cfg := rfl
@[simp] theorem lfsrStepBody_pend (s : State) : (lfsrStepBody s).pend = s.pend := rfl
@[simp] theorem lfsrStepBody_done (s : State) : (lfsrStepBody s).done = s.done := rfl
@[simp] theorem lfsrStepBody_err (s : State) : (lfsrStepBody s).err = s.err := rfl
@[simp] theorem lfsrStepBody_errCode (s : State) : (lfsrStepBody s).errCode = s.errCode := rfl
@[simp] theorem lfsrStepBody_keyValid (s : State) : (lfsrStepBody s).keyValid = s.keyValid := rfl
@[simp] theorem lfsrStepBody_sboxValid (s : State) : (lfsrStepBody s).sboxValid = s.sboxValid := rfl
@[simp] theorem lfsrStepBody_cmdOvr (s : State) : (lfsrStepBody s).cmdOvr = s.cmdOvr := rfl
@[simp] theorem lfsrStepBody_wrIgn (s : State) : (lfsrStepBody s).wrIgn = s.wrIgn := rfl
@[simp] theorem lfsrStepBody_lastCmd (s : State) : (lfsrStepBody s).lastCmd = s.lastCmd := rfl
@[simp] theorem lfsrStepBody_rounds (s : State) : (lfsrStepBody s).rounds = s.rounds := rfl
@[simp] theorem lfsrStepBody_lfsr (s : State) : (lfsrStepBody s).lfsr = (lfsrStep s.lfsr).1 := rfl
@[simp] theorem lfsrStepBody_din0 (s : State) : (lfsrStepBody s).din0 = s.din0 := rfl
@[simp] theorem lfsrStepBody_din1 (s : State) : (lfsrStepBody s).din1 = s.din1 := rfl
@[simp] theorem lfsrStepBody_dout (s : State) : (lfsrStepBody s).dout = (lfsrStep s.lfsr).2 := rfl
@[simp] theorem lfsrStepBody_msgLen (s : State) : (lfsrStepBody s).msgLen = s.msgLen := rfl
@[simp] theorem lfsrStepBody_outLen (s : State) : (lfsrStepBody s).outLen = s.outLen := rfl
@[simp] theorem lfsrStepBody_sklog (s : State) : (lfsrStepBody s).sklog = s.sklog := rfl
@[simp] theorem lfsrStepBody_ibuf (s : State) : (lfsrStepBody s).ibuf = s.ibuf := rfl
@[simp] theorem lfsrStepBody_obuf (s : State) : (lfsrStepBody s).obuf = s.obuf := rfl
@[simp] theorem lfsrStepBody_key (s : State) : (lfsrStepBody s).key = s.key := rfl
@[simp] theorem lfsrStepBody_sbox (s : State) : (lfsrStepBody s).sbox = s.sbox := rfl
@[simp] theorem lfsrStepBody_invSbox (s : State) : (lfsrStepBody s).invSbox = s.invSbox := rfl
@[simp] theorem lfsrStepBody_host (s : State) : (lfsrStepBody s).host = s.host := rfl
@[simp] theorem lfsrStepBody_sched (s : State) : (lfsrStepBody s).sched = s.sched := rfl
@[simp] theorem lfsrStepBody_draws (s : State) : (lfsrStepBody s).draws = s.draws := rfl

@[simp] theorem setBlock_cfg (r : Word × Word × List Half) (s : State) : (setBlock r s).cfg = s.cfg := rfl
@[simp] theorem setBlock_pend (r : Word × Word × List Half) (s : State) : (setBlock r s).pend = s.pend := rfl
@[simp] theorem setBlock_done (r : Word × Word × List Half) (s : State) : (setBlock r s).done = s.done := rfl
@[simp] theorem setBlock_err (r : Word × Word × List Half) (s : State) : (setBlock r s).err = s.err := rfl
@[simp] theorem setBlock_errCode (r : Word × Word × List Half) (s : State) : (setBlock r s).errCode = s.errCode := rfl
@[simp] theorem setBlock_keyValid (r : Word × Word × List Half) (s : State) : (setBlock r s).keyValid = s.keyValid := rfl
@[simp] theorem setBlock_sboxValid (r : Word × Word × List Half) (s : State) : (setBlock r s).sboxValid = s.sboxValid := rfl
@[simp] theorem setBlock_cmdOvr (r : Word × Word × List Half) (s : State) : (setBlock r s).cmdOvr = s.cmdOvr := rfl
@[simp] theorem setBlock_wrIgn (r : Word × Word × List Half) (s : State) : (setBlock r s).wrIgn = s.wrIgn := rfl
@[simp] theorem setBlock_lastCmd (r : Word × Word × List Half) (s : State) : (setBlock r s).lastCmd = s.lastCmd := rfl
@[simp] theorem setBlock_rounds (r : Word × Word × List Half) (s : State) : (setBlock r s).rounds = s.rounds := rfl
@[simp] theorem setBlock_lfsr (r : Word × Word × List Half) (s : State) : (setBlock r s).lfsr = r.2.1 := rfl
@[simp] theorem setBlock_din0 (r : Word × Word × List Half) (s : State) : (setBlock r s).din0 = s.din0 := rfl
@[simp] theorem setBlock_din1 (r : Word × Word × List Half) (s : State) : (setBlock r s).din1 = s.din1 := rfl
@[simp] theorem setBlock_dout (r : Word × Word × List Half) (s : State) : (setBlock r s).dout = r.1 := rfl
@[simp] theorem setBlock_msgLen (r : Word × Word × List Half) (s : State) : (setBlock r s).msgLen = s.msgLen := rfl
@[simp] theorem setBlock_outLen (r : Word × Word × List Half) (s : State) : (setBlock r s).outLen = s.outLen := rfl
@[simp] theorem setBlock_sklog (r : Word × Word × List Half) (s : State) : (setBlock r s).sklog = logSubkeys r.2.2 := rfl
@[simp] theorem setBlock_ibuf (r : Word × Word × List Half) (s : State) : (setBlock r s).ibuf = s.ibuf := rfl
@[simp] theorem setBlock_obuf (r : Word × Word × List Half) (s : State) : (setBlock r s).obuf = s.obuf := rfl
@[simp] theorem setBlock_key (r : Word × Word × List Half) (s : State) : (setBlock r s).key = s.key := rfl
@[simp] theorem setBlock_sbox (r : Word × Word × List Half) (s : State) : (setBlock r s).sbox = s.sbox := rfl
@[simp] theorem setBlock_invSbox (r : Word × Word × List Half) (s : State) : (setBlock r s).invSbox = s.invSbox := rfl
@[simp] theorem setBlock_host (r : Word × Word × List Half) (s : State) : (setBlock r s).host = s.host := rfl
@[simp] theorem setBlock_sched (r : Word × Word × List Half) (s : State) : (setBlock r s).sched = s.sched := rfl
@[simp] theorem setBlock_draws (r : Word × Word × List Half) (s : State) : (setBlock r s).draws = s.draws := rfl

@[simp] theorem setMessage_cfg (out : List Byte) (n : Nat) (l : Word) (sk : List Half) (s : State) : (setMessage out n l sk s).cfg = s.cfg := rfl
@[simp] theorem setMessage_pend (out : List Byte) (n : Nat) (l : Word) (sk : List Half) (s : State) : (setMessage out n l sk s).pend = s.pend := rfl
@[simp] theorem setMessage_done (out : List Byte) (n : Nat) (l : Word) (sk : List Half) (s : State) : (setMessage out n l sk s).done = s.done := rfl
@[simp] theorem setMessage_err (out : List Byte) (n : Nat) (l : Word) (sk : List Half) (s : State) : (setMessage out n l sk s).err = s.err := rfl
@[simp] theorem setMessage_errCode (out : List Byte) (n : Nat) (l : Word) (sk : List Half) (s : State) : (setMessage out n l sk s).errCode = s.errCode := rfl
@[simp] theorem setMessage_keyValid (out : List Byte) (n : Nat) (l : Word) (sk : List Half) (s : State) : (setMessage out n l sk s).keyValid = s.keyValid := rfl
@[simp] theorem setMessage_sboxValid (out : List Byte) (n : Nat) (l : Word) (sk : List Half) (s : State) : (setMessage out n l sk s).sboxValid = s.sboxValid := rfl
@[simp] theorem setMessage_cmdOvr (out : List Byte) (n : Nat) (l : Word) (sk : List Half) (s : State) : (setMessage out n l sk s).cmdOvr = s.cmdOvr := rfl
@[simp] theorem setMessage_wrIgn (out : List Byte) (n : Nat) (l : Word) (sk : List Half) (s : State) : (setMessage out n l sk s).wrIgn = s.wrIgn := rfl
@[simp] theorem setMessage_lastCmd (out : List Byte) (n : Nat) (l : Word) (sk : List Half) (s : State) : (setMessage out n l sk s).lastCmd = s.lastCmd := rfl
@[simp] theorem setMessage_rounds (out : List Byte) (n : Nat) (l : Word) (sk : List Half) (s : State) : (setMessage out n l sk s).rounds = s.rounds := rfl
@[simp] theorem setMessage_lfsr (out : List Byte) (n : Nat) (l : Word) (sk : List Half) (s : State) : (setMessage out n l sk s).lfsr = l := rfl
@[simp] theorem setMessage_din0 (out : List Byte) (n : Nat) (l : Word) (sk : List Half) (s : State) : (setMessage out n l sk s).din0 = s.din0 := rfl
@[simp] theorem setMessage_din1 (out : List Byte) (n : Nat) (l : Word) (sk : List Half) (s : State) : (setMessage out n l sk s).din1 = s.din1 := rfl
@[simp] theorem setMessage_dout (out : List Byte) (n : Nat) (l : Word) (sk : List Half) (s : State) : (setMessage out n l sk s).dout = s.dout := rfl
@[simp] theorem setMessage_msgLen (out : List Byte) (n : Nat) (l : Word) (sk : List Half) (s : State) : (setMessage out n l sk s).msgLen = s.msgLen := rfl
@[simp] theorem setMessage_outLen (out : List Byte) (n : Nat) (l : Word) (sk : List Half) (s : State) : (setMessage out n l sk s).outLen = BitVec.ofNat 32 n := rfl
@[simp] theorem setMessage_sklog (out : List Byte) (n : Nat) (l : Word) (sk : List Half) (s : State) : (setMessage out n l sk s).sklog = logSubkeys sk := rfl
@[simp] theorem setMessage_ibuf (out : List Byte) (n : Nat) (l : Word) (sk : List Half) (s : State) : (setMessage out n l sk s).ibuf = s.ibuf := rfl
@[simp] theorem setMessage_obuf (out : List Byte) (n : Nat) (l : Word) (sk : List Half) (s : State) : (setMessage out n l sk s).obuf = memWrite s.obuf 0 out := rfl
@[simp] theorem setMessage_key (out : List Byte) (n : Nat) (l : Word) (sk : List Half) (s : State) : (setMessage out n l sk s).key = s.key := rfl
@[simp] theorem setMessage_sbox (out : List Byte) (n : Nat) (l : Word) (sk : List Half) (s : State) : (setMessage out n l sk s).sbox = s.sbox := rfl
@[simp] theorem setMessage_invSbox (out : List Byte) (n : Nat) (l : Word) (sk : List Half) (s : State) : (setMessage out n l sk s).invSbox = s.invSbox := rfl
@[simp] theorem setMessage_host (out : List Byte) (n : Nat) (l : Word) (sk : List Half) (s : State) : (setMessage out n l sk s).host = s.host := rfl
@[simp] theorem setMessage_sched (out : List Byte) (n : Nat) (l : Word) (sk : List Half) (s : State) : (setMessage out n l sk s).sched = s.sched := rfl
@[simp] theorem setMessage_draws (out : List Byte) (n : Nat) (l : Word) (sk : List Half) (s : State) : (setMessage out n l sk s).draws = s.draws + s.msgLen.toNat := rfl

@[simp] theorem resetEngine_cfg (s : State) : (resetEngine s).cfg = s.cfg := rfl
@[simp] theorem resetEngine_pend (s : State) : (resetEngine s).pend = State.reset.pend := rfl
@[simp] theorem resetEngine_done (s : State) : (resetEngine s).done = State.reset.done := rfl
@[simp] theorem resetEngine_err (s : State) : (resetEngine s).err = State.reset.err := rfl
@[simp] theorem resetEngine_errCode (s : State) : (resetEngine s).errCode = State.reset.errCode := rfl
@[simp] theorem resetEngine_keyValid (s : State) : (resetEngine s).keyValid = State.reset.keyValid := rfl
@[simp] theorem resetEngine_sboxValid (s : State) : (resetEngine s).sboxValid = State.reset.sboxValid := rfl
@[simp] theorem resetEngine_cmdOvr (s : State) : (resetEngine s).cmdOvr = State.reset.cmdOvr := rfl
@[simp] theorem resetEngine_wrIgn (s : State) : (resetEngine s).wrIgn = State.reset.wrIgn := rfl
@[simp] theorem resetEngine_lastCmd (s : State) : (resetEngine s).lastCmd = State.reset.lastCmd := rfl
@[simp] theorem resetEngine_rounds (s : State) : (resetEngine s).rounds = State.reset.rounds := rfl
@[simp] theorem resetEngine_lfsr (s : State) : (resetEngine s).lfsr = State.reset.lfsr := rfl
@[simp] theorem resetEngine_din0 (s : State) : (resetEngine s).din0 = State.reset.din0 := rfl
@[simp] theorem resetEngine_din1 (s : State) : (resetEngine s).din1 = State.reset.din1 := rfl
@[simp] theorem resetEngine_dout (s : State) : (resetEngine s).dout = State.reset.dout := rfl
@[simp] theorem resetEngine_msgLen (s : State) : (resetEngine s).msgLen = State.reset.msgLen := rfl
@[simp] theorem resetEngine_outLen (s : State) : (resetEngine s).outLen = State.reset.outLen := rfl
@[simp] theorem resetEngine_sklog (s : State) : (resetEngine s).sklog = State.reset.sklog := rfl
@[simp] theorem resetEngine_ibuf (s : State) : (resetEngine s).ibuf = State.reset.ibuf := rfl
@[simp] theorem resetEngine_obuf (s : State) : (resetEngine s).obuf = State.reset.obuf := rfl
@[simp] theorem resetEngine_key (s : State) : (resetEngine s).key = State.reset.key := rfl
@[simp] theorem resetEngine_sbox (s : State) : (resetEngine s).sbox = State.reset.sbox := rfl
@[simp] theorem resetEngine_invSbox (s : State) : (resetEngine s).invSbox = State.reset.invSbox := rfl
@[simp] theorem resetEngine_host (s : State) : (resetEngine s).host = s.host := rfl
@[simp] theorem resetEngine_sched (s : State) : (resetEngine s).sched = s.sched := rfl
@[simp] theorem resetEngine_draws (s : State) : (resetEngine s).draws = s.draws := rfl

@[simp] theorem writeStatus_cfg (v : Word) (s : State) : (writeStatus v s).cfg = s.cfg := rfl
@[simp] theorem writeStatus_pend (v : Word) (s : State) : (writeStatus v s).pend = s.pend := rfl
@[simp] theorem writeStatus_done (v : Word) (s : State) : (writeStatus v s).done = s.done := rfl
@[simp] theorem writeStatus_err (v : Word) (s : State) : (writeStatus v s).err = s.err := rfl
@[simp] theorem writeStatus_errCode (v : Word) (s : State) : (writeStatus v s).errCode = s.errCode := rfl
@[simp] theorem writeStatus_keyValid (v : Word) (s : State) : (writeStatus v s).keyValid = s.keyValid := rfl
@[simp] theorem writeStatus_sboxValid (v : Word) (s : State) : (writeStatus v s).sboxValid = s.sboxValid := rfl
@[simp] theorem writeStatus_cmdOvr (v : Word) (s : State) : (writeStatus v s).cmdOvr = (s.cmdOvr && !v.getLsbD 16) := rfl
@[simp] theorem writeStatus_wrIgn (v : Word) (s : State) : (writeStatus v s).wrIgn = (s.wrIgn && !v.getLsbD 17) := rfl
@[simp] theorem writeStatus_lastCmd (v : Word) (s : State) : (writeStatus v s).lastCmd = s.lastCmd := rfl
@[simp] theorem writeStatus_rounds (v : Word) (s : State) : (writeStatus v s).rounds = s.rounds := rfl
@[simp] theorem writeStatus_lfsr (v : Word) (s : State) : (writeStatus v s).lfsr = s.lfsr := rfl
@[simp] theorem writeStatus_din0 (v : Word) (s : State) : (writeStatus v s).din0 = s.din0 := rfl
@[simp] theorem writeStatus_din1 (v : Word) (s : State) : (writeStatus v s).din1 = s.din1 := rfl
@[simp] theorem writeStatus_dout (v : Word) (s : State) : (writeStatus v s).dout = s.dout := rfl
@[simp] theorem writeStatus_msgLen (v : Word) (s : State) : (writeStatus v s).msgLen = s.msgLen := rfl
@[simp] theorem writeStatus_outLen (v : Word) (s : State) : (writeStatus v s).outLen = s.outLen := rfl
@[simp] theorem writeStatus_sklog (v : Word) (s : State) : (writeStatus v s).sklog = s.sklog := rfl
@[simp] theorem writeStatus_ibuf (v : Word) (s : State) : (writeStatus v s).ibuf = s.ibuf := rfl
@[simp] theorem writeStatus_obuf (v : Word) (s : State) : (writeStatus v s).obuf = s.obuf := rfl
@[simp] theorem writeStatus_key (v : Word) (s : State) : (writeStatus v s).key = s.key := rfl
@[simp] theorem writeStatus_sbox (v : Word) (s : State) : (writeStatus v s).sbox = s.sbox := rfl
@[simp] theorem writeStatus_invSbox (v : Word) (s : State) : (writeStatus v s).invSbox = s.invSbox := rfl
@[simp] theorem writeStatus_host (v : Word) (s : State) : (writeStatus v s).host = s.host := rfl
@[simp] theorem writeStatus_sched (v : Word) (s : State) : (writeStatus v s).sched = s.sched := rfl
@[simp] theorem writeStatus_draws (v : Word) (s : State) : (writeStatus v s).draws = s.draws := rfl

@[simp] theorem spendTurn_cfg (s : State) : (spendTurn s).cfg = s.cfg := rfl
@[simp] theorem spendTurn_pend (s : State) : (spendTurn s).pend = s.pend := rfl
@[simp] theorem spendTurn_done (s : State) : (spendTurn s).done = s.done := rfl
@[simp] theorem spendTurn_err (s : State) : (spendTurn s).err = s.err := rfl
@[simp] theorem spendTurn_errCode (s : State) : (spendTurn s).errCode = s.errCode := rfl
@[simp] theorem spendTurn_keyValid (s : State) : (spendTurn s).keyValid = s.keyValid := rfl
@[simp] theorem spendTurn_sboxValid (s : State) : (spendTurn s).sboxValid = s.sboxValid := rfl
@[simp] theorem spendTurn_cmdOvr (s : State) : (spendTurn s).cmdOvr = s.cmdOvr := rfl
@[simp] theorem spendTurn_wrIgn (s : State) : (spendTurn s).wrIgn = s.wrIgn := rfl
@[simp] theorem spendTurn_lastCmd (s : State) : (spendTurn s).lastCmd = s.lastCmd := rfl
@[simp] theorem spendTurn_rounds (s : State) : (spendTurn s).rounds = s.rounds := rfl
@[simp] theorem spendTurn_lfsr (s : State) : (spendTurn s).lfsr = s.lfsr := rfl
@[simp] theorem spendTurn_din0 (s : State) : (spendTurn s).din0 = s.din0 := rfl
@[simp] theorem spendTurn_din1 (s : State) : (spendTurn s).din1 = s.din1 := rfl
@[simp] theorem spendTurn_dout (s : State) : (spendTurn s).dout = s.dout := rfl
@[simp] theorem spendTurn_msgLen (s : State) : (spendTurn s).msgLen = s.msgLen := rfl
@[simp] theorem spendTurn_outLen (s : State) : (spendTurn s).outLen = s.outLen := rfl
@[simp] theorem spendTurn_sklog (s : State) : (spendTurn s).sklog = s.sklog := rfl
@[simp] theorem spendTurn_ibuf (s : State) : (spendTurn s).ibuf = s.ibuf := rfl
@[simp] theorem spendTurn_obuf (s : State) : (spendTurn s).obuf = s.obuf := rfl
@[simp] theorem spendTurn_key (s : State) : (spendTurn s).key = s.key := rfl
@[simp] theorem spendTurn_sbox (s : State) : (spendTurn s).sbox = s.sbox := rfl
@[simp] theorem spendTurn_invSbox (s : State) : (spendTurn s).invSbox = s.invSbox := rfl
@[simp] theorem spendTurn_host (s : State) : (spendTurn s).host = s.host := rfl
@[simp] theorem spendTurn_sched (s : State) : (spendTurn s).sched = s.sched.tail := rfl
@[simp] theorem spendTurn_draws (s : State) : (spendTurn s).draws = s.draws := rfl

@[simp] theorem placeCommand_cfg (w : Word) (s : State) : (placeCommand w s).cfg = s.cfg := rfl
@[simp] theorem placeCommand_pend (w : Word) (s : State) : (placeCommand w s).pend = some w := rfl
@[simp] theorem placeCommand_done (w : Word) (s : State) : (placeCommand w s).done = false := rfl
@[simp] theorem placeCommand_err (w : Word) (s : State) : (placeCommand w s).err = false := rfl
@[simp] theorem placeCommand_errCode (w : Word) (s : State) : (placeCommand w s).errCode = 0#4 := rfl
@[simp] theorem placeCommand_keyValid (w : Word) (s : State) : (placeCommand w s).keyValid = s.keyValid := rfl
@[simp] theorem placeCommand_sboxValid (w : Word) (s : State) : (placeCommand w s).sboxValid = s.sboxValid := rfl
@[simp] theorem placeCommand_cmdOvr (w : Word) (s : State) : (placeCommand w s).cmdOvr = s.cmdOvr := rfl
@[simp] theorem placeCommand_wrIgn (w : Word) (s : State) : (placeCommand w s).wrIgn = s.wrIgn := rfl
@[simp] theorem placeCommand_lastCmd (w : Word) (s : State) : (placeCommand w s).lastCmd = w := rfl
@[simp] theorem placeCommand_rounds (w : Word) (s : State) : (placeCommand w s).rounds = s.rounds := rfl
@[simp] theorem placeCommand_lfsr (w : Word) (s : State) : (placeCommand w s).lfsr = s.lfsr := rfl
@[simp] theorem placeCommand_din0 (w : Word) (s : State) : (placeCommand w s).din0 = s.din0 := rfl
@[simp] theorem placeCommand_din1 (w : Word) (s : State) : (placeCommand w s).din1 = s.din1 := rfl
@[simp] theorem placeCommand_dout (w : Word) (s : State) : (placeCommand w s).dout = s.dout := rfl
@[simp] theorem placeCommand_msgLen (w : Word) (s : State) : (placeCommand w s).msgLen = s.msgLen := rfl
@[simp] theorem placeCommand_outLen (w : Word) (s : State) : (placeCommand w s).outLen = s.outLen := rfl
@[simp] theorem placeCommand_sklog (w : Word) (s : State) : (placeCommand w s).sklog = s.sklog := rfl
@[simp] theorem placeCommand_ibuf (w : Word) (s : State) : (placeCommand w s).ibuf = s.ibuf := rfl
@[simp] theorem placeCommand_obuf (w : Word) (s : State) : (placeCommand w s).obuf = s.obuf := rfl
@[simp] theorem placeCommand_key (w : Word) (s : State) : (placeCommand w s).key = s.key := rfl
@[simp] theorem placeCommand_sbox (w : Word) (s : State) : (placeCommand w s).sbox = s.sbox := rfl
@[simp] theorem placeCommand_invSbox (w : Word) (s : State) : (placeCommand w s).invSbox = s.invSbox := rfl
@[simp] theorem placeCommand_host (w : Word) (s : State) : (placeCommand w s).host = s.host := rfl
@[simp] theorem placeCommand_sched (w : Word) (s : State) : (placeCommand w s).sched = [] := rfl
@[simp] theorem placeCommand_draws (w : Word) (s : State) : (placeCommand w s).draws = s.draws := rfl

/-- BUSY is read off PEND (R36). -/
@[simp] theorem finish_busy (s : State) : (finish s).busy = false := rfl
@[simp] theorem raise_busy (e : ErrKind) (s : State) : (raise e s).busy = false := rfl
@[simp] theorem issue_busy (w : Word) (s : State) : (issue w s).busy = true := rfl
@[simp] theorem resetEngine_busy (s : State) : (resetEngine s).busy = false := rfl

/-- The machine is busy exactly when a word is pending (R33). -/
theorem busy_iff (s : State) : s.busy = true ↔ ∃ w, s.pend = some w := by
  unfold State.busy; cases s.pend <;> simp

theorem not_busy_iff (s : State) : s.busy = false ↔ s.pend = none := by
  unfold State.busy; cases s.pend <;> simp

end Sys2Proof.Machine
end

