-- ==== Sys2Proof/Laws/Bus.lean ====
section
/-! SUPPORT. What one host access can do to the state. -/

namespace Sys2Proof.Machine

/-- The state one access leaves, by what it addressed (R86): nothing changed; a read, which only counts its draws; or one
of the writes. -/
theorem busAccess_cases (a : Access) (s : State) :
    ((busAccess a s).1 = .busErr ∧ (busAccess a s).2 = s) ∨
      (a.write = none ∧ ∃ n, (busAccess a s).2 = { s with draws := n }) ∨
      (∃ v, a.write = some v ∧
        ((busAccess a s).2 = writeCmd v s ∨ (busAccess a s).2 = writeStatus v s ∨
          ∃ t, targetAt s.cfg a.addr.toNat = some t ∧ a.addr.toNat % 4 = 0 ∧ (busAccess a s).2 = writeData t v s)) := by
  unfold busAccess
  split
  · exact .inl ⟨rfl, rfl⟩
  · next hbad =>
    cases htgt : targetAt s.cfg a.addr.toNat with
    | none => exact .inl ⟨rfl, rfl⟩
    | some t =>
      cases hw : a.write with
      | none =>
        refine .inr (.inl ⟨rfl, ?_⟩)
        simp only [busRead]
        split
        · exact ⟨_, rfl⟩
        · exact ⟨_, rfl⟩
      | some v =>
        simp only [busWrite]
        split
        · exact .inl ⟨rfl, rfl⟩
        · refine .inr (.inr ⟨v, rfl, ?_⟩)
          split
          · exact .inl rfl
          · split
            · exact .inr (.inl rfl)
            · exact .inr (.inr ⟨t, rfl, by omega, rfl⟩)

/-- Where an IBUF target comes from: a word of the window (R81). -/
theorem targetAt_ibuf (cfg : Config) (a off : Nat) (h : targetAt cfg a = some (.ibuf off)) :
    off = a - 0x4000 ∧ 0x4000 ≤ a ∧ off < cfg.msgMaxBytes := by
  unfold targetAt at h
  split at h
  · unfold registerAt at h; split at h <;> simp at h
  · split at h
    · simp at h
    · split at h
      · simp at h; omega
      · split at h <;> simp at h

end Sys2Proof.Machine
end

