-- ==== Sys2Proof/Laws/Cipher.lean ====
section
/-! SUPPORT. Small lemmas of the cipher's functions: the length of a schedule, of a chain and of a block conversion. -/

namespace Sys2Proof.Machine

/-- A schedule has one subkey a round (R181). -/
@[simp] theorem subkeys_length (s : Word) (r : Nat) : (subkeys s r).1.length = r := by
  induction r generalizing s with
  | zero => rfl
  | succ r ih => simp [subkeys, ih]

/-- The state and the output of a step are one word (R180). -/
theorem lfsrStep_snd (s : Word) : (lfsrStep s).2 = (lfsrStep s).1 := rfl

@[simp] theorem bytesOfWord_length (v : Word) : (bytesOfWord v).length = 4 := rfl

/-- Four bytes a block (R293). -/
@[simp] theorem toBytes_length (b : List Word) : (toBytes b).length = 4 * b.length := by
  induction b with
  | nil => rfl
  | cons x rest ih => simp only [toBytes, List.flatMap_cons, List.length_append, bytesOfWord_length, List.length_cons] at *; omega

/-- A chain keeps the number of blocks. -/
@[simp] theorem chain_length (f : Word → Word → Word × Word × List Half) (bs : List Word) (s : Word) (sk : List Half) :
    (chain f bs s sk).1.length = bs.length := by
  induction bs generalizing s sk with
  | nil => rfl
  | cons b rest ih => simp [chain, ih]

/-- `len(pad(d)) = 4 * (len(d) div 4 + 1)` needs no block to be cut (R290). -/
theorem toBlocks_length (d : List Byte) (h : d.length % 4 = 0) : (toBlocks d).length = d.length / 4 := by
  match d with
  | [] => rfl
  | [_] => simp at h
  | [_, _] => simp at h
  | [_, _, _] => simp at h
  | b0 :: b1 :: b2 :: b3 :: rest =>
    simp only [List.length_cons] at h
    have := toBlocks_length rest (by omega)
    simp only [toBlocks, List.length_cons, this]
    omega

end Sys2Proof.Machine
end

