-- ==== Sys2Proof/Laws/Memory.lean ====
section
/-! SUPPORT. The laws of the byte buffers: a write is read back, leaves every other byte alone, and keeps the canonical
form and the capacity. -/

namespace Sys2Proof.Machine

theorem byte?_write_self (m : Memory) (a : Nat) (b : Byte) : Memory.byte? (Memory.write m a b) a = some b := by
  induction m with
  | nil => simp [Memory.write, Memory.byte?]
  | cons x rest ih =>
    obtain ⟨k, v⟩ := x
    simp only [Memory.write]
    split
    · simp [Memory.byte?]
    · split
      · simp [Memory.byte?]
      · simp [Memory.byte?, ih, show ¬k = a by omega]

theorem byte?_write_other (m : Memory) (a c : Nat) (b : Byte) (h : c ≠ a) :
    Memory.byte? (Memory.write m a b) c = Memory.byte? m c := by
  induction m with
  | nil => simp [Memory.write, Memory.byte?, Ne.symm h]
  | cons x rest ih =>
    obtain ⟨k, v⟩ := x
    simp only [Memory.write]
    split
    · simp [Memory.byte?, Ne.symm h]
    · split
      · next h₂ => simp [Memory.byte?, Ne.symm h, ← h₂]
      · simp [Memory.byte?, ih]

theorem byte?_write (m : Memory) (a c : Nat) (b : Byte) :
    Memory.byte? (Memory.write m a b) c = if c = a then some b else Memory.byte? m c := by
  split
  · next h => exact h ▸ byte?_write_self m a b
  · next h => exact byte?_write_other m a c b h

/-- `MemWrite` reads back inside the bytes written and leaves every other byte alone (R19). -/
theorem byte?_memWrite (m : Memory) (a c : Nat) (bs : List Byte) :
    Memory.byte? (memWrite m a bs) c =
      if a ≤ c ∧ c < a + bs.length then bs[c - a]? else Memory.byte? m c := by
  induction bs generalizing m a with
  | nil => simp [memWrite, show ¬(a ≤ c ∧ c < a) by omega]
  | cons b rest ih =>
    simp only [memWrite, ih, byte?_write, List.length_cons]
    by_cases h : c = a
    · subst h; simp
    · by_cases h₁ : a ≤ c ∧ c < a + (rest.length + 1)
      · have h₂ : a + 1 ≤ c ∧ c < a + 1 + rest.length := by omega
        obtain ⟨k, hk⟩ : ∃ k, c - a = k + 1 := ⟨c - a - 1, by omega⟩
        have hk' : c - (a + 1) = k := by omega
        simp [h₁, h₂, hk, hk']
      · have h₂ : ¬(a + 1 ≤ c ∧ c < a + 1 + rest.length) := by omega
        rw [if_neg h₂, if_neg h, if_neg h₁]

/-- Where the entries of a written buffer lie. -/
theorem mem_write (m : Memory) (a : Nat) (b : Byte) (x : Host.Cell) (h : x ∈ Memory.write m a b) :
    x.1 = a ∨ x ∈ m := by
  induction m with
  | nil => simp [Memory.write] at h; simp [h]
  | cons y rest ih =>
    obtain ⟨k, v⟩ := y
    simp only [Memory.write] at h
    split at h
    · rcases List.mem_cons.1 h with rfl | h
      · exact .inl rfl
      · exact .inr h
    · split at h
      · rcases List.mem_cons.1 h with rfl | h
        · exact .inl rfl
        · exact .inr (List.mem_cons_of_mem _ h)
      · rcases List.mem_cons.1 h with rfl | h
        · exact .inr (List.mem_cons_self ..)
        · exact (ih h).imp id (List.mem_cons_of_mem _)

/-- A write keeps the canonical form. -/
theorem write_wf (m : Memory) (a : Nat) (b : Byte) (h : Memory.wf m) : Memory.wf (Memory.write m a b) := by
  induction m with
  | nil => simp [Memory.write]
  | cons x rest ih =>
    obtain ⟨k, v⟩ := x
    obtain ⟨h₁, h₂⟩ := List.pairwise_cons.1 h
    simp only [Memory.write]
    split
    · next hlt =>
      refine List.pairwise_cons.2 ⟨fun y hy => ?_, h⟩
      rcases List.mem_cons.1 hy with rfl | hy
      · exact hlt
      · exact Nat.lt_trans hlt (h₁ y hy)
    · split
      · next heq => exact List.pairwise_cons.2 ⟨fun y hy => heq ▸ h₁ y hy, h₂⟩
      · refine List.pairwise_cons.2 ⟨fun y hy => ?_, ih h₂⟩
        rcases mem_write _ _ _ _ hy with hy | hy
        · show k < y.1
          omega
        · exact h₁ y hy

/-- A write below the capacity keeps a buffer in order. -/
theorem write_ok (m : Memory) (a n : Nat) (b : Byte) (h : BufferOk m n) (ha : a < n) :
    BufferOk (Memory.write m a b) n :=
  ⟨write_wf m a b h.1, fun x hx => (mem_write _ _ _ _ hx).elim (fun e => e ▸ ha) (h.2 x)⟩

/-- `MemWrite` keeps the canonical form. -/
theorem memWrite_wf (m : Memory) (a : Nat) (bs : List Byte) (h : Memory.wf m) : Memory.wf (memWrite m a bs) := by
  induction bs generalizing m a with
  | nil => exact h
  | cons b rest ih => exact ih _ _ (write_wf m a b h)

/-- `MemWrite` below the capacity keeps a buffer in order. -/
theorem memWrite_ok (m : Memory) (a n : Nat) (bs : List Byte) (h : BufferOk m n) (ha : a + bs.length ≤ n) :
    BufferOk (memWrite m a bs) n := by
  induction bs generalizing m a with
  | nil => exact h
  | cons b rest ih =>
    simp only [List.length_cons] at ha
    exact ih _ _ (write_ok m a n b h (by omega)) (by omega)

@[simp] theorem memRead_length (m : Memory) (a n d : Nat) : (memRead m a n d).length = n := by
  induction n generalizing a d with
  | zero => rfl
  | succ n ih => simp [memRead, ih]

/-- Byte `i` of `MemRead` is byte `a + i` of the buffer, or its draw (R89). -/
theorem memRead_getElem? (m : Memory) (a n d i : Nat) (h : i < n) :
    (memRead m a n d)[i]? = some (readByte m (a + i) (d + i)) := by
  induction n generalizing a d i with
  | zero => omega
  | succ n ih =>
    cases i with
    | zero => rfl
    | succ i =>
      simp only [memRead, List.getElem?_cons_succ]
      rw [ih (a + 1) (d + 1) i (by omega)]
      congr 2 <;> omega

/-- The message a command reads is one the rules allow (R89). -/
theorem messageIn_reads (s : State) : ReadsMessage s (messageIn s) := by
  refine ⟨by simp [messageIn], fun i b hi hb => ?_⟩
  simp [messageIn, memRead_getElem? _ _ _ _ _ hi, readByte, hb]

end Sys2Proof.Machine
end

