-- ==== Sys2Proof/Laws/Ops.lean ====
section
/-! SUPPORT. What the shared operations can do: a command either raises its first failing check and nothing else, or runs
its body and completes. -/

namespace Sys2Proof.Machine

/-- No check fails exactly when every check passes. -/
theorem firstFailing_eq_none (cs : List Check) : firstFailing cs = none ↔ ∀ c ∈ cs, c.1 = true := by
  induction cs with
  | nil => simp [firstFailing]
  | cons c rest ih =>
    obtain ⟨p, e⟩ := c
    cases p <;> simp [firstFailing, ih]

/-- Everything a command can answer: always a next state, with the first failing check's error or with the body's effect
(R151, R332). -/
theorem command_cases (s : State) (cs : List Check) (body : State → State) :
    (∃ e, firstFailing cs = some e ∧ command s cs body = .next (raise e s)) ∨
      (firstFailing cs = none ∧ command s cs body = .next (finish (body s))) := by
  unfold command
  cases h : firstFailing cs with
  | none => exact .inr ⟨rfl, rfl⟩
  | some e => exact .inl ⟨e, rfl, rfl⟩

/-- A command with no check runs its body. -/
@[simp] theorem command_nil (s : State) (body : State → State) : command s [] body = .next (finish (body s)) := rfl

/-- A command whose checks all pass runs its body. -/
theorem command_ok (s : State) (cs : List Check) (body : State → State) (h : ∀ c ∈ cs, c.1 = true) :
    command s cs body = .next (finish (body s)) := by
  simp [command, (firstFailing_eq_none cs).2 h]

@[simp] theorem needSbox_fst (s : State) : (needSbox s).1 = s.sboxValid := rfl
@[simp] theorem needKey_fst (s : State) : (needKey s).1 = s.keyValid := rfl
@[simp] theorem needSbox_snd (s : State) : (needSbox s).2 = .noSbox := rfl
@[simp] theorem needKey_snd (s : State) : (needKey s).2 = .noKey := rfl
@[simp] theorem needRounds_snd (s : State) : (needRounds s).2 = .badRounds := rfl
@[simp] theorem needFits_snd (s : State) : (needFits s).2 = .lenOverflow := rfl
@[simp] theorem needAligned_snd (s : State) : (needAligned s).2 = .malformedInput := rfl
@[simp] theorem needNonempty_snd (s : State) : (needNonempty s).2 = .invalidPadding := rfl

/-- The rounds check passes exactly on legal round counts (R39). -/
@[simp] theorem needRounds_fst (s : State) :
    (needRounds s).1 = true ↔ 1 ≤ s.rounds.toNat ∧ s.rounds.toNat ≤ 16 := by
  show (decide (1 ≤ s.rounds.toNat) && decide (s.rounds.toNat ≤ 16)) = true ↔ _
  rw [Bool.and_eq_true, decide_eq_true_iff, decide_eq_true_iff]

@[simp] theorem needFits_fst (s : State) : (needFits s).1 = true ↔ s.msgLen.toNat ≤ s.cfg.msgMaxBytes := by
  simp [needFits]

@[simp] theorem needAligned_fst (s : State) : (needAligned s).1 = true ↔ s.msgLen.toNat % 4 = 0 := by
  simp [needAligned]

@[simp] theorem needNonempty_fst (s : State) : (needNonempty s).1 = true ↔ s.msgLen.toNat ≠ 0 := by
  simp [needNonempty]

/-- The codes of R330 are 1 to 8. -/
theorem code_range (e : ErrKind) : 1 ≤ e.code.toNat ∧ e.code.toNat ≤ 8 := by cases e <;> decide

theorem code_ne_zero (e : ErrKind) : e.code ≠ 0#4 := by cases e <;> decide

/-- The subkeys of a schedule are logged entry by entry, and 0 beyond them (R46). -/
@[simp] theorem logSubkeys_get (sk : List Half) (i : Fin 16) : (logSubkeys sk)[i] = sk.getD i.val 0#16 := by
  simp [logSubkeys]

end Sys2Proof.Machine
end

