-- ==== Sys2Proof/Laws/Exec.lean ====
section
/-! SUPPORT. What a completed command can be: one inversion lemma for DEC_MSG, and the one for every command. -/

namespace Sys2Proof.Machine

/-! Each arm of `exec`, as the shared operation it is. -/

theorem exec_nop (s : State) :
    exec .nop s = command s [] id := rfl

theorem exec_keyLoad (s : State) :
    exec .keyLoad s = command s [] keyLoadBody := rfl

theorem exec_sboxLoad (s : State) :
    exec .sboxLoad s = command s [(isPerm (hostTable s), .notPermutation)] sboxLoadBody := rfl

theorem exec_sboxRd (imm : Half) (s : State) :
    exec (.sboxRd imm) s = command s [needSbox s] fun s => setDout (packHalf (tableNamed imm s) (selHalf imm)) s := rfl

theorem exec_rotl16 (imm : Half) (s : State) :
    exec (.rotl16 imm) s = command s [] fun s => setDout (zext32 (rotl16 (lowHalf s.din0) (rotateAmount imm))) s := rfl

theorem exec_lfsrStep (s : State) :
    exec .lfsrStep s = command s [] lfsrStepBody := rfl

theorem exec_subst (s : State) :
    exec .subst s = command s [needSbox s] fun s => setDout (zext32 (substitute (lowHalf s.din0) s.sbox)) s := rfl

theorem exec_isubst (s : State) :
    exec .isubst s = command s [needSbox s] fun s => setDout (zext32 (substitute (lowHalf s.din0) s.invSbox)) s := rfl

theorem exec_perm (s : State) :
    exec .perm s = command s [] fun s => setDout (zext32 (permute (lowHalf s.din0))) s := rfl

theorem exec_iperm (s : State) :
    exec .iperm s = command s [] fun s => setDout (zext32 (inversePermute (lowHalf s.din0))) s := rfl

theorem exec_roundf (imm : Half) (s : State) :
    exec (.roundf imm) s = command s [needSbox s] fun s => setDout (zext32 (roundF s.sbox (lowHalf s.din0) (subkeyImm imm))) s := rfl

theorem exec_encRound (imm : Half) (s : State) :
    exec (.encRound imm) s = command s [needSbox s] fun s => setDout (encRound s.sbox s.din0 (subkeyImm imm)) s := rfl

theorem exec_decRound (imm : Half) (s : State) :
    exec (.decRound imm) s = command s [needSbox s] fun s => setDout (decRound s.sbox s.din0 (subkeyImm imm)) s := rfl

theorem exec_encBlk (s : State) :
    exec .encBlk s = command s [needSbox s, needRounds s] fun s => setBlock (encryptBlock s.sbox s.din0 s.lfsr s.rounds.toNat) s := rfl

theorem exec_decBlk (s : State) :
    exec .decBlk s = command s [needSbox s, needRounds s] fun s => setBlock (decryptBlock s.sbox s.din0 s.lfsr s.rounds.toNat) s := rfl

theorem exec_encMsg (s : State) :
    exec .encMsg s = command s (encMsgChecks s) encMsgBody := rfl

theorem exec_decMsg (s : State) :
    exec .decMsg s = execDecMsg s := rfl

/-- Everything DEC_MSG can answer: an early error with no other effect, the plaintext, or the late error with the
decrypted bytes kept (R297). -/
theorem execDecMsg_cases (s : State) :
    (∃ e, firstFailing (decMsgChecks s) = some e ∧ execDecMsg s = .next (raise e s)) ∨
      (firstFailing (decMsgChecks s) = none ∧
        ∃ q u l sk, decryptMessage s.sbox (messageIn s) s.key s.rounds.toNat = (q, u, l, sk) ∧
          ((∃ plain, u = some plain ∧ execDecMsg s = .next (finish (setMessage q plain.length l sk s))) ∨
            (u = none ∧ execDecMsg s = .next (raise .invalidPadding (setMessage q 0 l sk s))))) := by
  unfold execDecMsg
  cases h : firstFailing (decMsgChecks s) with
  | some e => exact .inl ⟨e, rfl, rfl⟩
  | none =>
    refine .inr ⟨rfl, ?_⟩
    generalize decryptMessage s.sbox (messageIn s) s.key s.rounds.toNat = r
    obtain ⟨q, u, l, sk⟩ := r
    refine ⟨q, u, l, sk, rfl, ?_⟩
    cases u with
    | some plain => exact .inl ⟨plain, rfl, rfl⟩
    | none => exact .inr ⟨rfl, rfl⟩

/-- `Completes o`: the outcome is the completion of some state, with or without an error raised. -/
def Completes (o : Host.Outcome State Fault Refusal) : Prop :=
  ∃ t, o = .next (finish t) ∨ ∃ e, o = .next (raise e t)

theorem command_completes (s : State) (cs : List Check) (body : State → State) : Completes (command s cs body) := by
  rcases command_cases s cs body with ⟨e, -, h⟩ | ⟨-, h⟩
  · exact ⟨s, .inr ⟨e, h⟩⟩
  · exact ⟨body s, .inl h⟩

theorem execDecMsg_completes (s : State) : Completes (execDecMsg s) := by
  rcases execDecMsg_cases s with ⟨e, -, h⟩ | ⟨-, q, u, l, sk, -, ⟨plain, -, h⟩ | ⟨-, h⟩⟩
  · exact ⟨s, .inr ⟨e, h⟩⟩
  · exact ⟨_, .inl h⟩
  · exact ⟨_, .inr ⟨_, h⟩⟩

/-- Every command answers a next state, a completion (R151). -/
theorem exec_completes (i : Instr) (s : State) : Completes (exec i s) := by
  cases i with
  | nop => rw [exec_nop]; exact command_completes s _ _
  | keyLoad => rw [exec_keyLoad]; exact command_completes s _ _
  | sboxLoad => rw [exec_sboxLoad]; exact command_completes s _ _
  | sboxRd imm => rw [exec_sboxRd]; exact command_completes s _ _
  | rotl16 imm => rw [exec_rotl16]; exact command_completes s _ _
  | lfsrStep => rw [exec_lfsrStep]; exact command_completes s _ _
  | subst => rw [exec_subst]; exact command_completes s _ _
  | isubst => rw [exec_isubst]; exact command_completes s _ _
  | perm => rw [exec_perm]; exact command_completes s _ _
  | iperm => rw [exec_iperm]; exact command_completes s _ _
  | roundf imm => rw [exec_roundf]; exact command_completes s _ _
  | encRound imm => rw [exec_encRound]; exact command_completes s _ _
  | decRound imm => rw [exec_decRound]; exact command_completes s _ _
  | encBlk => rw [exec_encBlk]; exact command_completes s _ _
  | decBlk => rw [exec_decBlk]; exact command_completes s _ _
  | encMsg => rw [exec_encMsg]; exact command_completes s _ _
  | decMsg => rw [exec_decMsg]; exact execDecMsg_completes s

end Sys2Proof.Machine
end

