-- ==== Sys2Proof/Laws/PerInstr.lean ====
section
/-! SUPPORT. Laws stated for every command, one lemma per constructor. Family TableMatch: the word of a well-formed command
agrees with the mask and the match of its row (30_encoding.md R123). -/

namespace Sys2Proof.Laws.TableMatch

open Sys2Proof

/-- The encoded word, under the mask of the command's format, is the match word of its OPC (R123). -/
def Statement (i : Instr) : Prop := i.wellFormed = true → encode i &&& formatMask (formatOf i) = opcMatch (opcOf i)

/-- Format I: the mask drops IMM. -/
theorem immediate_word (opc : BitVec 8) (imm : Half) : assembleWord opc imm &&& formatMask .i = opcMatch opc := by
  apply BitVec.eq_of_getLsbD_eq
  intro j hj
  rw [BitVec.getLsbD_and, getLsbD_assembleWord, formatMask, opcMatch]
  interval_cases j <;> simp

/-- Format S: the mask drops the selector, and IMM[15:2] is 0. -/
theorem selector_word (opc : BitVec 8) (imm : Half) (h : selectorLegal imm = true) :
    assembleWord opc imm &&& formatMask .s = opcMatch opc := by
  apply BitVec.eq_of_getLsbD_eq
  intro j hj
  rw [BitVec.getLsbD_and, getLsbD_assembleWord, formatMask, opcMatch]
  by_cases h2 : 2 ≤ j ∧ j < 16
  · rw [selectorLegal_bits imm h j h2.1]
    simp [h2.2, show ¬24 ≤ j by omega]
  · interval_cases j <;> first | omega | simp

theorem nop : Statement .nop := fun _ => by decide

theorem keyLoad : Statement .keyLoad := fun _ => by decide

theorem sboxLoad : Statement .sboxLoad := fun _ => by decide

theorem sboxRd (imm : Half) : Statement (.sboxRd imm) := fun h => selector_word _ imm h

theorem rotl16 (imm : Half) : Statement (.rotl16 imm) := fun _ => immediate_word _ imm

theorem lfsrStep : Statement .lfsrStep := fun _ => by decide

theorem subst : Statement .subst := fun _ => by decide

theorem isubst : Statement .isubst := fun _ => by decide

theorem perm : Statement .perm := fun _ => by decide

theorem iperm : Statement .iperm := fun _ => by decide

theorem roundf (imm : Half) : Statement (.roundf imm) := fun _ => immediate_word _ imm

theorem encRound (imm : Half) : Statement (.encRound imm) := fun _ => immediate_word _ imm

theorem decRound (imm : Half) : Statement (.decRound imm) := fun _ => immediate_word _ imm

theorem encBlk : Statement .encBlk := fun _ => by decide

theorem decBlk : Statement .decBlk := fun _ => by decide

theorem encMsg : Statement .encMsg := fun _ => by decide

theorem decMsg : Statement .decMsg := fun _ => by decide

end Sys2Proof.Laws.TableMatch
end

