-- ==== Sys2Proof/Laws/Step.lean ====
section
/-! SUPPORT. What one step can do: one case for each event. -/

namespace Sys2Proof.Machine

/-- The host's next statement: nothing, a jump, or one access whose response is recorded (R130). -/
theorem hostStep_cases (bus : Access → State → Response × State) (s : State) :
    (∃ h, hostStep bus s = { s with host := h }) ∨
      ∃ a h, s.host.script[s.host.pos]? = some (.access a) ∧ hostStep bus s = { (bus a s).2 with host := h } := by
  unfold hostStep
  split
  · exact .inl ⟨s.host, rfl⟩
  · exact .inl ⟨s.host, rfl⟩
  · exact .inl ⟨_, rfl⟩
  · exact .inl ⟨_, rfl⟩
  · next a h => exact .inr ⟨a, _, h, rfl⟩

/-- A step always answers a next state: the event that comes next, on the state whose schedule has lost it. -/
theorem step_cases (s : State) :
    (nextTurn s = .host ∧ step s = .next (hostStep busAccess (spendTurn s))) ∨
      (nextTurn s = .reset ∧ step s = .next (resetEngine (spendTurn s))) ∨
      (nextTurn s = .hostInReset ∧ step s = .next (hostStep busInReset (resetEngine (spendTurn s)))) ∨
      (nextTurn s = .engine ∧ s.pend = none ∧ step s = .next (spendTurn s)) ∨
      (nextTurn s = .engine ∧ ∃ w e, s.pend = some w ∧ decode w = .error e ∧
        step s = .next (raise .illegalCmd (spendTurn s))) ∨
      (nextTurn s = .engine ∧ ∃ w i, s.pend = some w ∧ decode w = .ok i ∧ step s = exec i (spendTurn s)) := by
  unfold step takeTurn
  cases nextTurn s with
  | host => exact .inl ⟨rfl, rfl⟩
  | reset => exact .inr (.inl ⟨rfl, rfl⟩)
  | hostInReset => exact .inr (.inr (.inl ⟨rfl, rfl⟩))
  | engine =>
    refine .inr (.inr (.inr ?_))
    unfold complete
    rw [spendTurn_pend]
    cases hp : s.pend with
    | none => exact .inl ⟨rfl, rfl, rfl⟩
    | some w =>
      cases hd : decode w with
      | error e => exact .inr (.inl ⟨rfl, w, e, rfl, hd, by simp [hd]⟩)
      | ok i => exact .inr (.inr ⟨rfl, w, i, rfl, hd, by simp [hd]⟩)

/-- A run goes on from the state its first step answers. -/
theorem run_next (M : Host.Core) (s t : M.State) (k : Nat) (h : M.step s = .next t) : M.run (k + 1) s = M.run k t := by
  simp only [Host.Core.run, h]

/-- The same of this machine, in its own types. -/
theorem core_run_next (s t : State) (k : Nat) (h : step s = .next t) : core.run (k + 1) s = core.run k t :=
  run_next core s t k h

/-- No step ends in a fault or a refusal. -/
theorem step_next (s : State) : ∃ t, step s = .next t := by
  rcases step_cases s with ⟨-, h⟩ | ⟨-, h⟩ | ⟨-, h⟩ | ⟨-, -, h⟩ | ⟨-, w, e, -, -, h⟩ | ⟨-, w, i, -, -, h⟩
  · exact ⟨_, h⟩
  · exact ⟨_, h⟩
  · exact ⟨_, h⟩
  · exact ⟨_, h⟩
  · exact ⟨_, h⟩
  · obtain ⟨t, ht | ⟨e, ht⟩⟩ := exec_completes i (spendTurn s)
    · exact ⟨_, h.trans ht⟩
    · exact ⟨_, h.trans ht⟩

end Sys2Proof.Machine
end

