-- ==== Sys2Proof/Tests/Slice0.lean ====
section
/-! SUPPORT. The model's own tests: the smoke test of WellFormed, a decoded word for every command, one or two steps per
command with the values of 95_test_vectors.md, and a witness for the hypotheses of every statement. -/

namespace Sys2Proof.Tests

open Sys2Proof Sys2Proof.Machine

/-! ### WellFormed -/

/-- Format S (R121): the selector 4 has IMM[15:2] != 0, the selector 3 has not. -/
theorem test_wellFormed_refuses_selector_4 : (Instr.sboxRd 4#16).wellFormed = false := by decide

theorem test_wellFormed_takes_selector_3 : (Instr.sboxRd 3#16).wellFormed = true := by decide

theorem test_wellFormed_refuses_selector_top_bit : (Instr.sboxRd 0x8000#16).wellFormed = false := by decide

/-! ### Decode: words written out from the fields of R121 and the map of R122 -/

theorem test_decode_nop : decode 0b00000000_00000000_0000000000000000#32 = .ok .nop := by decide

theorem test_decode_keyLoad : decode 0b00000001_00000000_0000000000000000#32 = .ok .keyLoad := by decide

theorem test_decode_sboxLoad : decode 0b00000010_00000000_0000000000000000#32 = .ok .sboxLoad := by decide

theorem test_decode_sboxRd : decode 0b00000011_00000000_0000000000000010#32 = .ok (.sboxRd 2#16) := by decide

theorem test_decode_rotl16 : decode 0b00010000_00000000_1111111111111100#32 = .ok (.rotl16 0xFFFC#16) := by decide

theorem test_decode_lfsrStep : decode 0b00100000_00000000_0000000000000000#32 = .ok .lfsrStep := by decide

theorem test_decode_subst : decode 0b00110000_00000000_0000000000000000#32 = .ok .subst := by decide

theorem test_decode_isubst : decode 0b00110001_00000000_0000000000000000#32 = .ok .isubst := by decide

theorem test_decode_perm : decode 0b01000000_00000000_0000000000000000#32 = .ok .perm := by decide

theorem test_decode_iperm : decode 0b01000001_00000000_0000000000000000#32 = .ok .iperm := by decide

theorem test_decode_roundf : decode 0b01010000_00000000_1010101111001101#32 = .ok (.roundf 0xABCD#16) := by decide

theorem test_decode_encRound : decode 0b01010001_00000000_0001001101010111#32 = .ok (.encRound 0x1357#16) := by decide

theorem test_decode_decRound : decode 0b01010010_00000000_1010101111001101#32 = .ok (.decRound 0xABCD#16) := by decide

theorem test_decode_encBlk : decode 0b01100000_00000000_0000000000000000#32 = .ok .encBlk := by decide

theorem test_decode_decBlk : decode 0b01100001_00000000_0000000000000000#32 = .ok .decBlk := by decide

theorem test_decode_encMsg : decode 0b01110000_00000000_0000000000000000#32 = .ok .encMsg := by decide

theorem test_decode_decMsg : decode 0b01110001_00000000_0000000000000000#32 = .ok .decMsg := by decide

/-- The illegal words of 95_test_vectors.md sections 2.1, 2.3 and 2.8, one for each reason of R128. -/
theorem test_decode_refuses_unassigned : decode 0x04000000#32 = .error (.unassignedOpc 4#8) := by decide

theorem test_decode_refuses_reserved : decode 0x10010004#32 = .error .reservedNotZero := by decide

theorem test_decode_refuses_z_immediate : decode 0x00000001#32 = .error .immediateNotZero := by decide

theorem test_decode_refuses_selector : decode 0x03000004#32 = .error .selectorTooLarge := by decide

/-- No two rows of R122 share an OPC. -/
theorem test_opcodes_differ : (opcodeMap.map Row.opc).Pairwise (· ≠ ·) := by decide

theorem test_decodeTableWord : decodeTableWord 32 0x70000000 = some .encMsg ∧ decodeTableWord 32 0xFF000000 = none := by
  decide

/-! ### Helpers -/

/-- The next state of an outcome. -/
def nextOf : Host.Outcome State Fault Refusal → Option State
  | .next s => some s
  | .fault _ => none
  | .refused _ => none

/-- Table TA of 95_test_vectors.md section 0. -/
def tableTA : Table :=
  ⟨#[6#4, 4#4, 12#4, 5#4, 0#4, 7#4, 2#4, 14#4, 1#4, 15#4, 3#4, 13#4, 8#4, 10#4, 9#4, 11#4], rfl⟩

/-- The inverse of TA (95_test_vectors.md section 0). -/
def inverseTA : Table :=
  ⟨#[4#4, 8#4, 6#4, 10#4, 1#4, 3#4, 0#4, 5#4, 12#4, 14#4, 13#4, 15#4, 2#4, 11#4, 7#4, 9#4], rfl⟩

/-- TA loaded (95_test_vectors.md section 2.3), no key. -/
def loaded : State := { State.reset with sboxValid := true, sbox := tableTA, invSbox := inverseTA }

/-- KEY = 12345678, table TA (95_test_vectors.md section 2.7). -/
def session : State := { loaded with keyValid := true, key := 0x12345678#32 }

/-- A session with a message in IBUF from index 0. -/
def withMessage (d : List Byte) (len : Nat) : State :=
  { session with ibuf := memWrite [] 0 d, msgLen := BitVec.ofNat 32 len }

/-- The reset state with a word pending. -/
def pending (w : Word) : State := issue w State.reset

/-- An access got no bus error. -/
def answeredOk : Response → Bool
  | .ok _ => true
  | .busErr => false

/-- The first bytes of OBUF. -/
def obufBytes (n : Nat) (s : State) : List (Option Byte) := (List.range n).map (Memory.byte? s.obuf)

/-! ### One step per command: the vectors of 95_test_vectors.md section 2 -/

theorem test_exec_nop : (nextOf (exec .nop (pending 0#32))).map statusWord = some 0x00000002#32 := by decide

/-- Section 2.3: STATUS = 00000032 and KEY = 12345678. -/
theorem test_exec_keyLoad :
    (nextOf (exec .keyLoad { State.reset with din0 := 0x12345678#32 })).map (fun s => (statusWord s, s.key, s.lfsr)) =
      some (0x00000032#32, 0x12345678#32, 0#32) := by decide

theorem test_exec_sboxLoad :
    (nextOf (exec .sboxLoad { State.reset with din0 := 0xE2705C46#32, din1 := 0xB9A8D3F1#32 })).map
      (fun s => (statusWord s, s.sbox, s.invSbox)) = some (0x00000022#32, tableTA, inverseTA) := by decide

theorem test_exec_sboxLoad_refuses :
    (nextOf (exec .sboxLoad { loaded with din0 := 0x76543211#32, din1 := 0xFEDCBA98#32 })).map
      (fun s => (s.errCode, s.sbox)) = some (8#4, tableTA) := by decide

theorem test_exec_sboxRd_ilo : (nextOf (exec (.sboxRd 2#16) loaded)).map State.dout = some 0x5031A684#32 := by decide

theorem test_exec_sboxRd_hi : (nextOf (exec (.sboxRd 1#16) loaded)).map State.dout = some 0xB9A8D3F1#32 := by decide

theorem test_exec_rotl16_right :
    (nextOf (exec (.rotl16 0xFFFF#16) { State.reset with din0 := 0x00008001#32 })).map State.dout =
      some 0x0000C000#32 := by decide

theorem test_exec_rotl16_upper_half_ignored :
    (nextOf (exec (.rotl16 4#16) { State.reset with din0 := 0xABCD1234#32 })).map State.dout = some 0x00002341#32 := by
  decide

theorem test_exec_lfsrStep_even_taps :
    (nextOf (exec .lfsrStep { State.reset with lfsr := 0x80200003#32 })).map (fun s => (s.lfsr, s.dout)) =
      some (0x40100001#32, 0x40100001#32) := by decide

theorem test_exec_lfsrStep_tap_21 :
    (nextOf (exec .lfsrStep { State.reset with lfsr := 0x00200000#32 })).map State.lfsr = some 0x80100000#32 := by decide

theorem test_exec_subst :
    (nextOf (exec .subst { loaded with din0 := 0x00000123#32 })).map State.dout = some 0x000064C5#32 := by decide

theorem test_exec_subst_no_sbox : (nextOf (exec .subst State.reset)).map statusWord = some 0x00000406#32 := by decide

theorem test_exec_isubst :
    (nextOf (exec .isubst { loaded with din0 := 0x00001234#32 })).map State.dout = some 0x000086A1#32 := by decide

theorem test_exec_perm :
    (nextOf (exec .perm { State.reset with din0 := 0x00001234#32 })).map State.dout = some 0x00009850#32 := by decide

theorem test_exec_iperm :
    (nextOf (exec .iperm { State.reset with din0 := 0x000000FF#32 })).map State.dout = some 0x000038C7#32 := by decide

theorem test_exec_roundf :
    (nextOf (exec (.roundf 0xABCD#16) { loaded with din0 := 0x00001234#32 })).map State.dout = some 0x0000FFCB#32 := by
  decide

theorem test_exec_encRound :
    (nextOf (exec (.encRound 0xABCD#16) { loaded with din0 := 0x12345678#32 })).map State.dout =
      some 0x5678354C#32 := by decide

theorem test_exec_decRound :
    (nextOf (exec (.decRound 0xABCD#16) { loaded with din0 := 0x12345678#32 })).map State.dout =
      some 0xA9B31234#32 := by decide

theorem test_exec_encBlk :
    (nextOf (exec .encBlk { loaded with din0 := 0x12345678#32, lfsr := 0xCAFEBABE#32 })).map
      (fun s => (s.dout, s.lfsr, s.sklog.toList.take 5)) =
        some (0xC1A3001C#32, 0xDCAFEBAB#32, [0x5D5F#16, 0xAEAF#16, 0xD757#16, 0xEBAB#16, 0#16]) := by decide

theorem test_exec_encBlk_16_rounds :
    (nextOf (exec .encBlk { loaded with din0 := 0x12345678#32, lfsr := 0xCAFEBABE#32, rounds := 16#8 })).map
      (fun s => (s.dout, s.sklog.toList.drop 14)) = some (0x48F534D9#32, [0x95FD#16, 0xCAFE#16]) := by decide

theorem test_exec_decBlk :
    (nextOf (exec .decBlk { loaded with din0 := 0x12345678#32, lfsr := 0xCAFEBABE#32 })).map
      (fun s => (s.dout, s.lfsr)) = some (0xB2EB637D#32, 0xDCAFEBAB#32) := by decide

theorem test_exec_decBlk_17_rounds :
    (nextOf (exec .decBlk { loaded with rounds := 17#8 })).map (fun s => (s.errCode, s.lfsr)) = some (6#4, 0#32) := by
  decide

theorem test_exec_encMsg :
    (nextOf (exec .encMsg (withMessage [0x61#8, 0x62#8, 0x63#8, 0x64#8] 4))).map
      (fun s => (obufBytes 9 s, s.outLen, s.lfsr)) =
        some ([some 0x6E#8, some 0x68#8, some 0x71#8, some 0x2D#8, some 0x0A#8, some 0x02#8, some 0x1A#8, some 0x88#8,
          none], 8#32, 0xB3123456#32) := by decide

theorem test_exec_encMsg_empty :
    (nextOf (exec .encMsg session)).map (fun s => (obufBytes 4 s, s.outLen)) =
      some ([some 0x63#8, some 0x55#8, some 0xD6#8, some 0x86#8], 4#32) := by decide

theorem test_exec_decMsg :
    (nextOf (exec .decMsg (withMessage [0xD9#8, 0x8F#8, 0x99#8, 0x4C#8] 4))).map
      (fun s => (obufBytes 4 s, s.outLen, statusWord s)) =
        some ([some 0x61#8, some 0x62#8, some 0x63#8, some 0x01#8], 3#32, 0x00000032#32) := by decide

/-- Program P4: the late error keeps the decrypted block. -/
theorem test_exec_decMsg_late_error :
    (nextOf (exec .decMsg (withMessage [0xD9#8, 0x8F#8, 0x99#8, 0x4D#8] 4))).map
      (fun s => (obufBytes 4 s, s.outLen, statusWord s)) =
        some ([some 0xE2#8, some 0x67#8, some 0x61#8, some 0x49#8], 0#32, 0x00000136#32) := by decide

/-! ### The step, the bus and the script -/

theorem test_reset_memory_wf : Memory.wf State.reset.ibuf ∧ Memory.wf State.reset.obuf := by decide

/-- Section 2.8: FF000000 after reset. -/
theorem test_step_illegal :
    (nextOf (step (State.reset.withFetchWord 32 0xFF000000))).map (fun s => (statusWord s, s.lastCmd)) =
      some (0x00000306#32, 0xFF000000#32) := by decide

theorem test_step_runs_the_placed_word :
    (nextOf (step (State.withFetchWord { loaded with din0 := 0x00000123#32 } 32 0x30000000))).map State.dout =
      some 0x000064C5#32 := by decide

/-- Section 2.9. -/
theorem test_bus_param : busAccess ⟨32, 0x0028#16, none⟩ State.reset = (.ok 0x01100100#32, State.reset) := by decide

theorem test_bus_misaligned : busAccess ⟨32, 0x0002#16, none⟩ State.reset = (.busErr, State.reset) := by decide

theorem test_bus_rounds_low_byte :
    (busAccess ⟨32, 0x000C#16, some 0x12345605#32⟩ State.reset).2.rounds = 5#8 := by decide

theorem test_bus_obuf_edge :
    answeredOk (busAccess ⟨32, 0x8100#16, none⟩ State.reset).1 = true ∧
      answeredOk (busAccess ⟨32, 0x8104#16, none⟩ State.reset).1 = false := by decide

/-- R129: the aliases take no operand. -/
theorem test_assemble_aliases :
    assembleCmd ⟨"SBOX_RD.HI", none⟩ = some 0x03000001#32 ∧ assembleCmd ⟨"SBOX_RD.LO", some 5⟩ = none ∧
      assembleCmd ⟨"SBOX_RD", some 4⟩ = none := by decide

/-- R131, R132: RUNCHK is a CMD write, a WAIT loop and a jump on ERR. -/
theorem test_assemble_runchk :
    assemble [.runchk ⟨"ENC_BLK", none⟩ "fail", .label "fail", .halt] =
      some [.access ⟨32, 0x0000#16, some 0x60000000#32⟩, .access ⟨32, 0x0004#16, none⟩, .jbs 1 0, .jbs 4 2, .halt] := by
  decide

/-! ### Witnesses: concrete states and operands that meet the hypotheses of the statements -/

/-- A state whose host is at the first statement of a script. -/
def scripted (ops : List HostOp) (s : State) : State := { s with host := ⟨ops, 0, 0#32, none⟩ }

/-- The invariant holds in a session with a message. -/
def inSession : State := withMessage [0x61#8, 0x62#8, 0x63#8, 0x64#8] 4

theorem witness_DecodeAndEncodeAgree :
    (Instr.sboxRd 3#16).wellFormed = true ∧ (Instr.rotl16 0xFFFF#16).wellFormed = true ∧
      decode 0x03000003#32 = .ok (.sboxRd 3#16) := by decide

theorem witness_WordSelectsRowByMaskAndMatch :
    opcodeMap.map Row.opc = [0x00#8, 0x01#8, 0x02#8, 0x03#8, 0x10#8, 0x20#8, 0x30#8, 0x31#8, 0x40#8, 0x41#8, 0x50#8,
      0x51#8, 0x52#8, 0x60#8, 0x61#8, 0x70#8, 0x71#8] := by decide

theorem witness_IllegalWordsCompleteWithIllegalCmd :
    nextTurn (pending 0x03000004#32) = .engine ∧ (pending 0x03000004#32).pend = some 0x03000004#32 ∧
      decode 0x03000004#32 = .error .selectorTooLarge := by decide

theorem witness_WorkedEncodings :
    (pending 0x60000001#32).pend = some 0x60000001#32 ∧ (pending 0x60010000#32).pend = some 0x60010000#32 := by decide

theorem witness_StepRunsTheDecodedCommand :
    (pending 0x51001357#32).pend = some 0x51001357#32 ∧ decode 0x51001357#32 = .ok (.encRound 0x1357#16) ∧
      (pending 0x51001357#32).sched = [] ∧
      ({ pending 0x51001357#32 with sched := [.engine, .host] } : State).sched = .engine :: [.host] := by decide

/-- One host for each kind of statement: a write, a read that is answered and one that is not, both jumps, and HALT. -/
theorem witness_HostTurnsRunTheScript :
    (({ State.reset with sched := [.host] } : State).sched = .host :: []) ∧
    ((scripted [.access ⟨32, 0x0014#16, some 5#32⟩] State.reset).host.script[0]? =
        some (.access ⟨32, 0x0014#16, some 5#32⟩) ∧
      busAccess ⟨32, 0x0014#16, some 5#32⟩ State.reset = (.ok 0#32, { State.reset with din0 := 5#32 })) ∧
    ((scripted [.access ⟨32, 0x000C#16, none⟩] State.reset).host.script[0]? = some (.access ⟨32, 0x000C#16, none⟩) ∧
      busAccess ⟨32, 0x000C#16, none⟩ State.reset = (.ok 4#32, State.reset)) ∧
    busAccess ⟨32, 0x002C#16, none⟩ State.reset = (.busErr, State.reset) ∧
    (scripted [.jbs 3 31] State.reset).host.script[0]? = some (.jbs 3 31) ∧
    (scripted [.jbc 3 0] State.reset).host.script[0]? = some (.jbc 3 0) ∧
    (scripted [.halt] State.reset).host.script[0]? = some .halt := by decide

/-- A host at a WAIT, idle and busy. -/
theorem witness_WaitLoopsExactlyWhileBusy :
    waitOps 0 = [.access ⟨32, 0x0004#16, none⟩, .jbs 0 0] ∧
    (∀ s : State, (scripted (waitOps 0) s).host.script[(scripted (waitOps 0) s).host.pos]? =
      some (.access ⟨32, 0x0004#16, none⟩)) ∧
    (∀ s : State, (scripted (waitOps 0) s).host.script[(scripted (waitOps 0) s).host.pos + 1]? =
      some (.jbs (scripted (waitOps 0) s).host.pos 0)) ∧
    ({ scripted (waitOps 0) (pending 0#32) with sched := [.host, .host] } : State).sched = .host :: .host :: [] ∧
    (scripted (waitOps 0) (pending 0#32)).pend ≠ none ∧ (scripted (waitOps 0) State.reset).pend = none :=
  ⟨rfl, fun _ => rfl, fun _ => rfl, rfl, by decide, rfl⟩

theorem witness_CommandWriteIssuesOrIsDropped : State.reset.pend = none ∧ (pending 0x20000000#32).pend ≠ none := by decide

theorem witness_NopClearsAnErrorReport :
    ({ loaded with done := true, err := true, errCode := 5#4 } : State).pend = none ∧
      busAccess ⟨32, 0x0000#16, some 0x00000000#32⟩ { loaded with done := true, err := true, errCode := 5#4 } =
        (.ok 0#32, issue 0#32 loaded) := by decide

/-- A bus error of each kind, and an access with none. -/
theorem witness_BusErrorsAreExactlyThese :
    (busAccess ⟨8, 0x0014#16, none⟩ State.reset).1 = .busErr ∧
    (busAccess ⟨32, 0x0015#16, none⟩ State.reset).1 = .busErr ∧
    (busAccess ⟨32, 0x0080#16, none⟩ State.reset).1 = .busErr ∧
    (busAccess ⟨32, 0x8000#16, some 0#32⟩ State.reset).1 = .busErr ∧
    (busAccess ⟨32, 0x0028#16, none⟩ State.reset).1 ≠ .busErr := by decide

/-- The ends of the ranges of the address map, and the first address beyond each (R81). -/
theorem witness_BusErrorsAreExactlyThese_edges :
    (∀ a ∈ [0x00, 0x28, 0x40, 0x7C, 0x4000, 0x40FC, 0x8000, 0x8100], MappedAddress Config.reference a) ∧
    (∀ a ∈ [0x2C, 0x3C, 0x80, 0x3FFC, 0x4100, 0x7FFC, 0x8104, 0xFFFC], ¬MappedAddress Config.reference a) ∧
    ReadOnlyAddress 0x7C ∧ ¬ReadOnlyAddress 0x20 := by
  simp [MappedAddress, ReadOnlyAddress, Config.reference]

theorem witness_DataWritesWhileBusyAreDropped :
    (pending 0#32).pend ≠ none ∧
    (∀ a ∈ [0x000C#16, 0x0010#16, 0x0014#16, 0x0018#16, 0x0020#16, 0x4000#16, 0x40FC#16],
      a.toNat % 4 = 0 ∧ DataAddress (pending 0#32).cfg a.toNat) ∧
    ¬DataAddress (pending 0#32).cfg 0x4100 := by
  simp [DataAddress, pending, issue, State.reset, Config.reference]

theorem witness_DataRegisterWritesStore : State.reset.pend = none := by decide

theorem witness_RegistersReadTheirValues : session.pend = none ∧ BitVec.ofNat 16 (0x40 + 4 * 15) = 0x7C#16 := by decide

theorem witness_ContestedReadsAreDraws :
    (pending 0#32).pend ≠ none ∧
    ∀ a ∈ [0x0010#16, 0x001C#16, 0x0024#16, 0x0040#16, 0x007C#16, 0x8000#16, 0x8100#16],
      a.toNat % 4 = 0 ∧ ContestedAddress (pending 0#32).cfg a.toNat := by
  simp [ContestedAddress, pending, issue, State.reset, Config.reference]

/-- The reserved bits at the ends of their ranges; none of them is a field. -/
theorem witness_StatusShowsItsFields :
    ∀ i ∈ [3, 6, 7, 12, 15, 18, 31], (i = 3 ∨ i = 6 ∨ i = 7 ∨ (12 ≤ i ∧ i ≤ 15) ∨ 18 ≤ i) ∧
      i ∉ [0, 1, 2, 4, 5, 8, 9, 10, 11, 16, 17] := by decide

theorem witness_StatusWriteClearsStickyFlags :
    (0x00010000#32).getLsbD 16 = true ∧ (0x00010000#32).getLsbD 17 = false ∧
      (0x00020000#32).getLsbD 16 = false ∧ (0x00020000#32).getLsbD 17 = true := by decide

/-- The first and the last word of each window, idle and busy. -/
theorem witness_BufferWindowsAreBigEndian :
    4 * 0 + 3 < State.reset.cfg.msgMaxBytes ∧ 4 * 63 + 3 < State.reset.cfg.msgMaxBytes ∧ State.reset.pend = none ∧
    (pending 0#32).pend ≠ none ∧ 4 * 64 + 3 < State.reset.cfg.msgMaxBytes + 4 ∧
    (∀ j ∈ [0, 1, 2, 3], Memory.byte?
      ({ session with obuf := memWrite [] 256 [1#8, 2#8, 3#8, 4#8] } : State).obuf (4 * 64 + j) =
        some (BitVec.ofNat 8 (j + 1))) := by decide

/-- The last IBUF word known while a command is pending. -/
theorem witness_BufferWindowsAreBigEndian_busy :
    (issue 0#32 { session with ibuf := memWrite [] 252 [1#8, 2#8, 3#8, 4#8] }).pend ≠ none ∧
    (∀ j ∈ [0, 1, 2, 3], Memory.byte?
      (issue 0#32 { session with ibuf := memWrite [] 252 [1#8, 2#8, 3#8, 4#8] }).ibuf (4 * 63 + j) =
        some (BitVec.ofNat 8 (j + 1))) := by decide

theorem witness_ReadsHaveNoSideEffect : (⟨32, 0x8000#16, none⟩ : Access).write = none := by decide

theorem witness_OperandsAreFrozenWhilePending :
    ({ pending 0#32 with sched := [.host] } : State).pend ≠ none ∧
    nextTurn { pending 0#32 with sched := [.host] } = .host ∧
    nextOf (step { pending 0#32 with sched := [.host] }) ≠ none := by decide

/-- A pending command with no reset to come, and one whose schedule holds host events only. -/
theorem witness_PendingCommandCompletesInTime :
    (pending 0x20000000#32).pend = some 0x20000000#32 ∧ Turn.reset ∉ (pending 0x20000000#32).sched ∧
    Turn.hostInReset ∉ (pending 0x20000000#32).sched ∧
    ({ pending 0x20000000#32 with sched := [.host, .engine] } : State).pend = some 0x20000000#32 ∧
    Turn.reset ∉ ([.host, .engine] : List Turn) ∧ Turn.hostInReset ∉ ([.host, .engine] : List Turn) := by decide

theorem witness_ResetSetsEveryEngineField :
    ({ session with sched := [.reset] } : State).sched = .reset :: [] ∧
    ({ scripted [.access ⟨32, 0x0004#16, none⟩] session with sched := [.hostInReset] } : State).sched =
      .hostInReset :: [] ∧
    (scripted [.access ⟨32, 0x0004#16, none⟩] session).host.script[0]? = some (.access ⟨32, 0x0004#16, none⟩) := by decide

theorem witness_OnlyResetClearsTheSession :
    nextOf (step session) ≠ none ∧ nextTurn session = .host ∧ session.keyValid = true ∧ session.sboxValid = true := by
  decide

/-- The invariant holds after reset, in a session with a message, and with a command pending; each takes a step. -/
theorem witness_EveryStepKeepsTheInvariant :
    Inv inSession ∧ Inv (issue 0x70000000#32 inSession) ∧ nextOf (step inSession) ≠ none ∧
      nextOf (step (issue 0x70000000#32 inSession)) ≠ none := by decide

theorem witness_UnloadedTablesAreNeverObserved :
    (pending 0x02000000#32).sboxValid = false ∧ nextOf (step (pending 0x02000000#32)) ≠ none := by decide

/-- Each error of R332 at the edge of its range, and a command with none. -/
theorem witness_FirstApplicableErrorIsReported :
    ((pending 0xFF000000#32).pend = some 0xFF000000#32 ∧ decode 0xFF000000#32 = .error (.unassignedOpc 0xFF#8)) ∧
    earlyError .sboxLoad State.reset = some 8#4 ∧ earlyError .encBlk State.reset = some 4#4 ∧
    earlyError .encMsg loaded = some 5#4 ∧ earlyError .encMsg { session with rounds := 0#8 } = some 6#4 ∧
    earlyError .encMsg { session with rounds := 17#8 } = some 6#4 ∧
    earlyError .encMsg { session with msgLen := 257#32 } = some 7#4 ∧
    earlyError .decMsg { session with msgLen := 261#32 } = some 7#4 ∧
    earlyError .decMsg { session with msgLen := 255#32 } = some 2#4 ∧ earlyError .decMsg session = some 1#4 ∧
    earlyError .encMsg { session with msgLen := 256#32, rounds := 16#8 } = none ∧
    earlyError .decMsg { session with msgLen := 256#32, rounds := 1#8 } = none ∧
    earlyError .nop State.reset = none ∧
    earlyError .sboxLoad { State.reset with din0 := 0x76543210#32, din1 := 0xFEDCBA98#32 } = none := by decide

/-- An illegal word, an early error and the late error of DEC_MSG. -/
theorem witness_ErrorsArePreciseAndLocal :
    (pending 0x20000001#32).pend = some 0x20000001#32 ∧ (pending 0x20000001#32).err = false ∧
    (nextOf (complete (pending 0x20000001#32))).map State.err = some true ∧
    (nextOf (complete (pending 0x30000000#32))).map State.err = some true ∧
    (nextOf (complete (issue 0x71000000#32 (withMessage [0xD9#8, 0x8F#8, 0x99#8, 0x4D#8] 4)))).map State.err =
      some true := by decide

theorem witness_RotlRotatesTheLowHalf :
    ((0 : Nat) < 16 ∧ (15 : Nat) < 16) ∧ (0x8000#16).toInt = -32768 ∧ (0x7FFF#16).toInt = 32767 := by decide

theorem witness_LfsrStepIsInvertible : (lfsrStep 0x80200003#32).1 = 0x40100001#32 := by decide

theorem witness_EarlySubkeysAreSeedBits :
    (15 : Nat) < 16 ∧ 15 < 16 ∧ (subkeys 0xCAFEBABE#32 16).1[15]? = some 0xCAFE#16 := by decide

/-- TA's entries are distinct, and two equal entries are not. -/
theorem witness_SboxLoadTakesOnlyPermutations :
    HostEntriesDistinct { State.reset with din0 := 0xE2705C46#32, din1 := 0xB9A8D3F1#32 } ∧
      ¬HostEntriesDistinct { State.reset with din0 := 0x76543211#32, din1 := 0xFEDCBA98#32 } := by decide

theorem witness_SboxReadPacksAHalfTable :
    (3#16).toNat < 4 ∧ (0#16).toNat < 4 ∧ loaded.sboxValid = true ∧ State.reset.sboxValid = false ∧ (7 : Nat) < 8 := by decide

theorem witness_SubstMapsEachNibble :
    loaded.sboxValid = true ∧ State.reset.sboxValid = false ∧ (3 : Nat) < 4 := by decide

theorem witness_SubstitutionsUndoEachOther : SessionConsistent session ∧ session.sboxValid = true := by decide

theorem witness_RoundCommandsApplyOneRound : loaded.sboxValid = true ∧ State.reset.sboxValid = false := by decide

theorem witness_BlockCommandsRunTheCipher :
    loaded.sboxValid = true ∧ RoundsLegal loaded ∧ RoundsLegal { loaded with rounds := 1#8 } ∧
      RoundsLegal { loaded with rounds := 16#8 } ∧ ¬RoundsLegal { loaded with rounds := 0#8 } ∧
      ¬RoundsLegal { loaded with rounds := 17#8 } ∧ State.reset.sboxValid = false := by decide

theorem witness_HostChainingMatchesTheMessageChain : loaded.sboxValid = true ∧ RoundsLegal loaded := by decide

/-- An input that is refused, whose last byte is 0, and one that is stripped. -/
theorem witness_PaddingIsRecognisedExactly :
    unpad [0x61#8, 0x62#8, 0x63#8, 0x00#8] = none ∧ unpad [0x61#8, 0x02#8, 0x02#8, 0x02#8] = some [0x61#8, 0x02#8] ∧
      unpad [0x04#8, 0x04#8, 0x04#8, 0x04#8] = some [] := by decide

theorem witness_BlocksAndBytesUndoEachOther :
    [0x61#8, 0x62#8, 0x63#8, 0x01#8].length % 4 = 0 ∧
      [0x61#8, 0x62#8, 0x63#8, 0x01#8][4 * 0 + 3]? = some 0x01#8 ∧ [0xD98F994C#32][0]? = some 0xD98F994C#32 := by
  decide

theorem witness_EachBlockIsCipheredOnItsOwn :
    (toBlocks (pad [0x61#8, 0x62#8, 0x63#8, 0x64#8]))[1]? = some 0x04040404#32 ∧
      [0xD9#8, 0x8F#8, 0x99#8, 0x4C#8].length % 4 = 0 ∧
      (toBlocks [0xD9#8, 0x8F#8, 0x99#8, 0x4C#8])[0]? = some 0xD98F994C#32 := by decide

/-- The shortest and the longest plaintext, and an early error. -/
theorem witness_EncMsgEncryptsTheMessage :
    session.sboxValid = true ∧ session.keyValid = true ∧ RoundsLegal session ∧
      session.msgLen.toNat ≤ session.cfg.msgMaxBytes ∧
      ({ session with msgLen := 256#32 } : State).msgLen.toNat ≤ session.cfg.msgMaxBytes ∧
      earlyError .encMsg { session with msgLen := 257#32 } = some 7#4 := by decide

/-- The shortest and the longest ciphertext, and an early error. -/
theorem witness_DecMsgDecryptsTheMessage :
    session.sboxValid = true ∧ session.keyValid = true ∧ RoundsLegal session ∧
      (∀ n ∈ [4#32, 256#32], n.toNat ≤ session.cfg.msgMaxBytes ∧ n.toNat % 4 = 0 ∧ n.toNat ≠ 0) ∧
      earlyError .decMsg { session with msgLen := 5#32 } = some 2#4 :=
  ⟨by decide, by decide, by decide, by simp [session, loaded, State.reset, Config.reference], by decide⟩

/-- A ciphertext that unpads and one that does not (95_test_vectors.md section 2.7). -/
theorem witness_DecMsgDecryptsTheMessage_unpad :
    (decryptMessage tableTA [0xD9#8, 0x8F#8, 0x99#8, 0x4C#8] 0x12345678#32 4).2.1 =
        some [0x61#8, 0x62#8, 0x63#8] ∧
      (decryptMessage tableTA [0xD9#8, 0x8F#8, 0x99#8, 0x4D#8] 0x12345678#32 4).2.1 = none := by decide

/-- The ciphertext of "abcd" fits, and IBUF may hold a copy of it. -/
theorem witness_EncryptCopyDecryptReturnsTheMessage :
    inSession.sboxValid = true ∧ inSession.keyValid = true ∧ RoundsLegal inSession ∧
      inSession.msgLen.toNat ≤ inSession.cfg.msgMaxBytes ∧
      (nextOf (exec .encMsg inSession)).map (fun t => (t.outLen.toNat, obufBytes 8 t)) =
        some (8, (List.range 8).map
          (Memory.byte? (memWrite [] 0 [0x6E#8, 0x68#8, 0x71#8, 0x2D#8, 0x0A#8, 0x02#8, 0x1A#8, 0x88#8]))) := by decide

/-- A command that completes and one that errors. -/
theorem witness_DoutCommandsFrame :
    WritesOnlyDout (.sboxRd 3#16) ∧ WritesOnlyDout .isubst ∧ nextOf (exec (.sboxRd 3#16) loaded) ≠ none ∧
      nextOf (exec .isubst State.reset) ≠ none :=
  ⟨.inr (.inr (.inr (.inr ⟨3#16, .inl rfl⟩))), .inr (.inl rfl), by decide, by decide⟩

theorem witness_SessionCommandsFrame :
    nextOf (exec .nop session) ≠ none ∧ nextOf (exec .sboxLoad session) ≠ none ∧
      (∃ t, exec .keyLoad session = .next t) := ⟨by decide, by decide, _, rfl⟩

theorem witness_LfsrAndBlockCommandsFrame :
    nextOf (exec .lfsrStep loaded) ≠ none ∧ nextOf (exec .encBlk loaded) ≠ none ∧
      nextOf (exec .decBlk State.reset) ≠ none := by decide

theorem witness_MessageCommandsFrame :
    nextOf (exec .encMsg inSession) ≠ none ∧ nextOf (exec .decMsg inSession) ≠ none ∧
      nextOf (exec .decMsg State.reset) ≠ none := by decide

end Sys2Proof.Tests
end

section
/-! Proofs of the statements of 10_state.md. Three lemmas carry them: `exec_completesBody` says once what a command's body
can change, `busAccess_withHidden` that no access touches KEY or the tables, and `getLsbD_statusWord` which field each bit
of STATUS is. -/

namespace Sys2Proof.Machine

/-! ## The session tables -/

/-- SBOX_GEN answers a permutation for every seed (R12, R202). -/
theorem isPerm_sboxGen (seed : Word) : isPerm (sboxGen seed) = true := by
  have inj : Function.Injective fun i : Fin 16 => (BitVec.ofFin (Config.sboxGen seed i) : Nibble) :=
    fun i j h => (Config.sboxGen seed).injective (BitVec.ofFin.inj h)
  rw [isPerm, decide_eq_true_iff, sboxGen, Vector.toList_ofFn]
  exact List.nodup_ofFn.2 inj

/-! ## The bytes a message command stores -/

/-- `len(pad(d)) = 4 * (len(d) div 4 + 1)` (R290). -/
theorem pad_length (d : List Byte) : (pad d).length = 4 * (d.length / 4 + 1) := by
  simp only [pad, List.length_append, List.length_replicate]
  omega

/-- ENC_MSG's ciphertext is as long as the padded message (R294). -/
theorem encryptMessage_length (t : Table) (m : List Byte) (key : Word) (r : Nat) :
    (encryptMessage t m key r).1.length = 4 * (m.length / 4 + 1) := by
  simp only [encryptMessage, toBytes_length, chain_length]
  rw [toBlocks_length _ (by rw [pad_length]; omega), pad_length]
  omega

/-- The decrypted, still padded bytes are as many as the ciphertext's, where it has whole blocks (R295). -/
theorem decryptMessage_length (t : Table) (c : List Byte) (key : Word) (r : Nat) (h : c.length % 4 = 0) :
    (decryptMessage t c key r).1.length = c.length := by
  simp only [decryptMessage, toBytes_length, chain_length, toBlocks_length c h]
  omega

@[simp] theorem messageIn_length (s : State) : (messageIn s).length = s.msgLen.toNat := by simp [messageIn]

/-- The padded message fits OBUF where the message fits IBUF (R11). -/
theorem padded_fits (s : State) (h : s.msgLen.toNat ≤ s.cfg.msgMaxBytes) :
    4 * (s.msgLen.toNat / 4 + 1) ≤ s.cfg.obufBytes := by
  simp only [Config.obufBytes]; omega

/-! ## Outcomes of the commands, family by family -/

/-- An outcome is one next state at most. -/
theorem eq_of_next {o : Host.Outcome State Fault Refusal} {t u : State} (hu : o = .next u) (ht : o = .next t) : t = u :=
  Host.Outcome.next.inj (ht.symm.trans hu)

/-- Commands with the one result DOUT are checks and a write of DOUT. -/
theorem exec_of_writesOnlyDout {i : Instr} (hi : WritesOnlyDout i) (s : State) :
    ∃ (cs : List Check) (v : State → Word), exec i s = command s cs fun s => setDout (v s) s := by
  rcases hi with rfl | rfl | rfl | rfl | ⟨imm, rfl | rfl | rfl | rfl | rfl⟩
  · exact ⟨_, _, exec_subst s⟩
  · exact ⟨_, _, exec_isubst s⟩
  · exact ⟨_, _, exec_perm s⟩
  · exact ⟨_, _, exec_iperm s⟩
  · exact ⟨_, _, exec_sboxRd imm s⟩
  · exact ⟨_, _, exec_rotl16 imm s⟩
  · exact ⟨_, _, exec_roundf imm s⟩
  · exact ⟨_, _, exec_encRound imm s⟩
  · exact ⟨_, _, exec_decRound imm s⟩

/-- What a command that answers a next state has done: raised an error, or run its body. -/
theorem next_of_command {s t : State} {cs : List Check} {body : State → State} (h : command s cs body = .next t) :
    (∃ e, firstFailing cs = some e ∧ t = raise e s) ∨ (firstFailing cs = none ∧ t = finish (body s)) := by
  rcases command_cases s cs body with ⟨e, he, h'⟩ | ⟨hn, h'⟩
  · exact .inl ⟨e, he, eq_of_next h' h⟩
  · exact .inr ⟨hn, eq_of_next h' h⟩

/-- The next states of a message command that stores `n` bytes: an early error with no other effect, or `n` bytes written
to OBUF, which they fit, with or without the late error (R296, R297). -/
inductive MessageOutcome (n : Nat) (s : State) : State → Prop
  | early (e : ErrKind) : MessageOutcome n s (raise e s)
  | stored (out : List Byte) (k : Nat) (l : Word) (sk : List Half) (hlen : out.length = n)
      (hfit : n ≤ s.cfg.obufBytes) : MessageOutcome n s (finish (setMessage out k l sk s))
  | late (e : ErrKind) (out : List Byte) (k : Nat) (l : Word) (sk : List Half) (hlen : out.length = n)
      (hfit : n ≤ s.cfg.obufBytes) : MessageOutcome n s (raise e (setMessage out k l sk s))

theorem encMsg_outcome {s t : State} (h : exec .encMsg s = .next t) :
    MessageOutcome (4 * (s.msgLen.toNat / 4 + 1)) s t := by
  rw [exec_encMsg] at h
  rcases next_of_command h with ⟨e, -, rfl⟩ | ⟨hok, rfl⟩
  · exact .early e
  · have hfits : (needFits s).1 = true := (firstFailing_eq_none _).1 hok _ (by simp [encMsgChecks])
    have hlen := encryptMessage_length s.sbox (messageIn s) s.key s.rounds.toNat
    rw [messageIn_length] at hlen
    exact .stored _ _ _ _ hlen (padded_fits s ((needFits_fst s).1 hfits))

theorem decMsg_outcome {s t : State} (h : exec .decMsg s = .next t) : MessageOutcome s.msgLen.toNat s t := by
  rw [exec_decMsg] at h
  rcases execDecMsg_cases s with ⟨e, -, h'⟩ | ⟨hok, q, u, l, sk, hq, h'⟩
  · obtain rfl := eq_of_next h' h
    exact .early e
  · have passes := (firstFailing_eq_none _).1 hok
    have hfits := (needFits_fst s).1 (passes _ (by simp [decMsgChecks]))
    have haligned := (needAligned_fst s).1 (passes _ (by simp [decMsgChecks]))
    have hlen : q.length = s.msgLen.toNat := by
      simpa [hq, haligned] using decryptMessage_length s.sbox (messageIn s) s.key s.rounds.toNat
    have hfit : s.msgLen.toNat ≤ s.cfg.obufBytes := Nat.le_add_right_of_le hfits
    rcases h' with ⟨plain, -, h'⟩ | ⟨-, h'⟩
    · obtain rfl := eq_of_next h' h
      exact .stored _ _ _ _ hlen hfit
    · obtain rfl := eq_of_next h' h
      exact .late _ _ _ _ _ hlen hfit

/-! ## What the body of a command does -/

/-- The updates a command's body makes, before the command completes (R151): none, the write of DOUT, the two loads of
the tables, an LFSR step, a block's results or a message's. -/
inductive BodyEffect (s : State) : State → Prop
  | nothing : BodyEffect s s
  | dout (v : Word) : BodyEffect s (setDout v s)
  | keyLoad : BodyEffect s (keyLoadBody s)
  | sboxLoad (hperm : isPerm (hostTable s) = true) : BodyEffect s (sboxLoadBody s)
  | lfsrStep : BodyEffect s (lfsrStepBody s)
  | block (r : Word × Word × List Half) : BodyEffect s (setBlock r s)
  | message (out : List Byte) (k : Nat) (l : Word) (sk : List Half) (hfit : out.length ≤ s.cfg.obufBytes) :
      BodyEffect s (setMessage out k l sk s)

/-- `CompletesBody s t`: `t` completes, with or without an error, the state some command's body leaves. -/
def CompletesBody (s t : State) : Prop := ∃ u, BodyEffect s u ∧ (t = finish u ∨ ∃ e, t = raise e u)

theorem completesBody_of_command {s t : State} {cs : List Check} {body : State → State}
    (h : command s cs body = .next t) (hbody : firstFailing cs = none → BodyEffect s (body s)) : CompletesBody s t := by
  rcases next_of_command h with ⟨e, -, rfl⟩ | ⟨hok, rfl⟩
  · exact ⟨s, .nothing, .inr ⟨e, rfl⟩⟩
  · exact ⟨_, hbody hok, .inl rfl⟩

theorem completesBody_of_writesOnlyDout {i : Instr} {s t : State} (hi : WritesOnlyDout i) (h : exec i s = .next t) :
    CompletesBody s t := by
  obtain ⟨cs, v, hexec⟩ := exec_of_writesOnlyDout hi s
  exact completesBody_of_command (hexec.symm.trans h) fun _ => .dout _

theorem MessageOutcome.completesBody {n : Nat} {s t : State} (h : MessageOutcome n s t) : CompletesBody s t := by
  cases h with
  | early e => exact ⟨s, .nothing, .inr ⟨e, rfl⟩⟩
  | stored out k l sk hlen hfit => exact ⟨_, .message out k l sk (hlen ▸ hfit), .inl rfl⟩
  | late e out k l sk hlen hfit => exact ⟨_, .message out k l sk (hlen ▸ hfit), .inr ⟨e, rfl⟩⟩

/-- Everything a command can do: one of the bodies' effects, then the completion (R151). -/
theorem exec_completesBody {i : Instr} {s t : State} (h : exec i s = .next t) : CompletesBody s t := by
  cases i with
  | nop => exact completesBody_of_command ((exec_nop s).symm.trans h) fun _ => .nothing
  | keyLoad => exact completesBody_of_command ((exec_keyLoad s).symm.trans h) fun _ => .keyLoad
  | sboxLoad =>
    rw [exec_sboxLoad] at h
    exact completesBody_of_command h fun hok => .sboxLoad (by simpa using (firstFailing_eq_none _).1 hok)
  | lfsrStep => exact completesBody_of_command ((exec_lfsrStep s).symm.trans h) fun _ => .lfsrStep
  | encBlk => exact completesBody_of_command ((exec_encBlk s).symm.trans h) fun _ => .block _
  | decBlk => exact completesBody_of_command ((exec_decBlk s).symm.trans h) fun _ => .block _
  | encMsg => exact (encMsg_outcome h).completesBody
  | decMsg => exact (decMsg_outcome h).completesBody
  | sboxRd imm | rotl16 imm | subst | isubst | perm | iperm | roundf imm | encRound imm | decRound imm =>
    exact completesBody_of_writesOnlyDout (by simp [WritesOnlyDout]) h

/-! ## The invariant (R36, R47, R53) -/

theorem inv_resetEngine (s : State) : Inv (resetEngine s) := by
  have hempty (n : Nat) : BufferOk [] n := ⟨.nil, fun _ hx => nomatch hx⟩
  exact ⟨⟨fun _ => rfl, fun he => (Bool.false_ne_true he).elim, fun _ => rfl⟩, Nat.zero_le 8,
    ⟨fun hv => (Bool.false_ne_true hv).elim, fun hv => (Bool.false_ne_true hv).elim⟩, .inl rfl, hempty _, hempty _⟩

theorem inv_finish {s : State} (h : Inv s) : Inv (finish s) := by
  obtain ⟨⟨-, herr, hnone⟩, hcode, hsession, -, hbuffers⟩ := h
  exact ⟨⟨fun _ => rfl, fun he => ⟨rfl, (herr he).2⟩, hnone⟩, hcode, hsession, .inl rfl, hbuffers⟩

theorem inv_raise {s : State} (e : ErrKind) (h : Inv s) : Inv (raise e s) := by
  obtain ⟨-, -, hsession, -, hbuffers⟩ := h
  exact ⟨⟨fun _ => rfl, fun _ => ⟨rfl, code_ne_zero e⟩, fun he => (Bool.false_ne_true he.symm).elim⟩,
    (code_range e).2, hsession, .inl rfl, hbuffers⟩

theorem inv_issue {s : State} (w : Word) (h : Inv s) : Inv (issue w s) := by
  obtain ⟨-, -, hsession, -, hbuffers⟩ := h
  exact ⟨⟨fun hd => (Bool.false_ne_true hd).elim, fun he => (Bool.false_ne_true he).elim, fun _ => rfl⟩,
    Nat.zero_le 8, hsession, .inr rfl, hbuffers⟩

/-- Loading a permutation with its inverse table keeps the invariant (R53 (1)). -/
theorem inv_setTables {s : State} (t : Table) (ht : isPerm t = true) (h : Inv s) :
    Inv (setTables t (inverseTable t) s) := by
  obtain ⟨hstatus, hcode, -, hpend, hbuffers⟩ := h
  exact ⟨hstatus, hcode, ⟨fun _ => ⟨ht, rfl⟩, fun _ => rfl⟩, hpend, hbuffers⟩

theorem inv_keyLoadBody {s : State} (h : Inv s) : Inv (keyLoadBody s) := by
  obtain ⟨hstatus, hcode, ⟨htables, -⟩, hpend, hbuffers⟩ := inv_setTables _ (isPerm_sboxGen s.din0) h
  exact ⟨hstatus, hcode, ⟨htables, fun _ => rfl⟩, hpend, hbuffers⟩

theorem inv_setMessage {s : State} (out : List Byte) (k : Nat) (l : Word) (sk : List Half)
    (hfit : out.length ≤ s.cfg.obufBytes) (h : Inv s) : Inv (setMessage out k l sk s) := by
  obtain ⟨hstatus, hcode, hsession, hpend, hibuf, hobuf⟩ := h
  exact ⟨hstatus, hcode, hsession, hpend, hibuf, memWrite_ok _ 0 _ out hobuf (by simpa using hfit)⟩

theorem BodyEffect.inv {s u : State} (hu : BodyEffect s u) (h : Inv s) : Inv u := by
  cases hu with
  | nothing => exact h
  | dout v => exact h
  | keyLoad => exact inv_keyLoadBody h
  | sboxLoad hperm => exact inv_setTables _ hperm h
  | lfsrStep => exact h
  | block r => exact h
  | message out k l sk hfit => exact inv_setMessage out k l sk hfit h

theorem exec_inv {i : Instr} {s t : State} (h : exec i s = .next t) (hs : Inv s) : Inv t := by
  obtain ⟨u, hu, rfl | ⟨e, rfl⟩⟩ := exec_completesBody h
  · exact inv_finish (hu.inv hs)
  · exact inv_raise e (hu.inv hs)

/-- A word written to an aligned IBUF address lies inside the capacity, a multiple of 4 (R11, R84). -/
theorem inv_ibufWord {s : State} {a off : Nat} (v : Word) (htgt : targetAt s.cfg a = some (.ibuf off)) (ha : a % 4 = 0)
    (h : Inv s) : Inv { s with ibuf := memWrite s.ibuf off (bytesOfWord v) } := by
  obtain ⟨hstatus, hcode, hsession, hpend, hibuf, hobuf⟩ := h
  obtain ⟨hoff, hlow, hhigh⟩ := targetAt_ibuf _ _ _ htgt
  have hcap := s.cfg.wholeWords
  have hfit : off + 4 ≤ s.cfg.msgMaxBytes := by omega
  exact ⟨hstatus, hcode, hsession, hpend, memWrite_ok _ _ _ _ hibuf hfit, hobuf⟩

theorem inv_writeData {s : State} {a : Nat} {t : Target} (v : Word) (htgt : targetAt s.cfg a = some t) (ha : a % 4 = 0)
    (h : Inv s) : Inv (writeData t v s) := by
  unfold writeData
  split
  · exact h
  · cases t with
    | ibuf off => exact inv_ibufWord v htgt ha h
    | cmd | status | lastCmd | rounds | lfsr | din0 | din1 | dout | msgLen | outLen | param | sklog i | obuf off => exact h

theorem inv_writeCmd {s : State} (w : Word) (h : Inv s) : Inv (writeCmd w s) := by
  unfold writeCmd
  split
  · exact h
  · exact inv_issue w h

theorem inv_busAccess {s : State} (a : Access) (h : Inv s) : Inv (busAccess a s).2 := by
  rcases busAccess_cases a s with ⟨-, hs⟩ | ⟨-, n, hs⟩ | ⟨v, -, hs | hs | ⟨t, htgt, ha, hs⟩⟩
  · rw [hs]; exact h
  · rw [hs]; exact h
  · rw [hs]; exact inv_writeCmd v h
  · rw [hs]; exact h
  · rw [hs]; exact inv_writeData v htgt ha h

/-- The host keeps the invariant if the bus that answers it does. -/
theorem inv_hostStep {bus : Access → State → Response × State} {s : State} (hbus : ∀ a, Inv (bus a s).2) (h : Inv s) :
    Inv (hostStep bus s) := by
  rcases hostStep_cases bus s with ⟨g, hs⟩ | ⟨a, g, -, hs⟩
  · rw [hs]; exact h
  · rw [hs]; exact hbus a

/-- Settles O26: every event keeps the invariant. A command's body keeps it, and so do the completion and the error; a
bus write stores below the capacity of IBUF. -/
theorem everyStepKeepsTheInvariant : Obligations.EveryStepKeepsTheInvariant := by
  intro s t hs h
  have hspent : Inv (spendTurn s) := hs
  rcases step_cases s with ⟨-, h'⟩ | ⟨-, h'⟩ | ⟨-, h'⟩ | ⟨-, -, h'⟩ | ⟨-, w, e, -, -, h'⟩ | ⟨-, w, i, -, -, h'⟩
  · obtain rfl := eq_of_next h' h
    exact inv_hostStep (fun a => inv_busAccess a hspent) hspent
  · obtain rfl := eq_of_next h' h
    exact inv_resetEngine _
  · obtain rfl := eq_of_next h' h
    exact inv_hostStep (fun _ => inv_resetEngine _) (inv_resetEngine _)
  · obtain rfl := eq_of_next h' h
    exact hspent
  · obtain rfl := eq_of_next h' h
    exact inv_raise _ hspent
  · exact exec_inv (h'.symm.trans h) hspent

/-- Settles O25: State.reset is the reset of itself. -/
theorem resetStateMeetsTheInvariant : Obligations.ResetStateMeetsTheInvariant := inv_resetEngine State.reset

/-! ## What the host leaves unchanged, and the valid bits (R50, R52) -/

theorem storeTarget_sameSession (t : Target) (v : Word) (s : State) : SameSession s (storeTarget t v s) := by
  cases t <;> exact ⟨rfl, rfl, rfl, rfl, rfl⟩

theorem writeData_sameSession (t : Target) (v : Word) (s : State) : SameSession s (writeData t v s) := by
  unfold writeData
  split
  · exact ⟨rfl, rfl, rfl, rfl, rfl⟩
  · exact storeTarget_sameSession t v s

theorem writeCmd_sameSession (w : Word) (s : State) : SameSession s (writeCmd w s) := by
  unfold writeCmd
  split
  · exact ⟨rfl, rfl, rfl, rfl, rfl⟩
  · exact ⟨rfl, rfl, rfl, rfl, rfl⟩

/-- No access changes KEY, a table or a valid bit (R49, R51). -/
theorem busAccess_sameSession (a : Access) (s : State) : SameSession s (busAccess a s).2 := by
  rcases busAccess_cases a s with ⟨-, hs⟩ | ⟨-, n, hs⟩ | ⟨v, -, hs | hs | ⟨t, -, -, hs⟩⟩
  · rw [hs]; exact ⟨rfl, rfl, rfl, rfl, rfl⟩
  · rw [hs]; exact ⟨rfl, rfl, rfl, rfl, rfl⟩
  · rw [hs]; exact writeCmd_sameSession v s
  · rw [hs]; exact ⟨rfl, rfl, rfl, rfl, rfl⟩
  · rw [hs]; exact writeData_sameSession t v s

theorem hostStep_sameSession (s : State) : SameSession s (hostStep busAccess s) := by
  rcases hostStep_cases busAccess s with ⟨g, hs⟩ | ⟨a, g, -, hs⟩
  · rw [hs]; exact ⟨rfl, rfl, rfl, rfl, rfl⟩
  · rw [hs]; exact busAccess_sameSession a s

/-- `KeepsValidBits s t`: a valid bit set in `s` is set in `t`. -/
def KeepsValidBits (s t : State) : Prop :=
  (s.keyValid = true → t.keyValid = true) ∧ (s.sboxValid = true → t.sboxValid = true)

theorem KeepsValidBits.of_sameSession {s t : State} (h : SameSession s t) : KeepsValidBits s t := by
  obtain ⟨-, -, -, hkey, hsbox⟩ := h
  exact ⟨hkey.trans, hsbox.trans⟩

/-- The bodies of the two loads set valid bits, and no other body touches one. -/
theorem BodyEffect.keepsValidBits {s u : State} (hu : BodyEffect s u) : KeepsValidBits s u := by
  cases hu with
  | keyLoad => exact ⟨fun _ => rfl, fun _ => rfl⟩
  | sboxLoad hperm => exact ⟨id, fun _ => rfl⟩
  | nothing | dout v | lfsrStep | block r | message out k l sk hfit => exact ⟨id, id⟩

theorem exec_keepsValidBits {i : Instr} {s t : State} (h : exec i s = .next t) : KeepsValidBits s t := by
  obtain ⟨u, hu, rfl | ⟨e, rfl⟩⟩ := exec_completesBody h
  · exact hu.keepsValidBits
  · exact hu.keepsValidBits

/-- Settles O24, by the events that are no reset: the host changes no session field, and a command sets valid bits only. -/
theorem onlyResetClearsTheSession : Obligations.OnlyResetClearsTheSession := by
  intro s t h hreset hinReset
  change KeepsValidBits (spendTurn s) t
  rcases step_cases s with ⟨-, h'⟩ | ⟨hn, -⟩ | ⟨hn, -⟩ | ⟨-, -, h'⟩ | ⟨-, w, e, -, -, h'⟩ | ⟨-, w, i, -, -, h'⟩
  · obtain rfl := eq_of_next h' h
    exact .of_sameSession (hostStep_sameSession _)
  · exact absurd hn hreset
  · exact absurd hn hinReset
  · obtain rfl := eq_of_next h' h
    exact ⟨id, id⟩
  · obtain rfl := eq_of_next h' h
    exact ⟨id, id⟩
  · exact exec_keepsValidBits (h'.symm.trans h)

/-! ## KEY and the tables have no address (R49, R51, R345) -/

/-- The state with another KEY and other tables. -/
def withHidden (k : Word) (p q : Table) (s : State) : State := { s with key := k, sbox := p, invSbox := q }

@[simp] theorem withHidden_busy (k : Word) (p q : Table) (s : State) : (withHidden k p q s).busy = s.busy := rfl
@[simp] theorem withHidden_cfg (k : Word) (p q : Table) (s : State) : (withHidden k p q s).cfg = s.cfg := rfl

@[simp] theorem targetValue_withHidden (t : Target) (k : Word) (p q : Table) (s : State) :
    targetValue t (withHidden k p q s) = targetValue t s := by
  cases t <;> rfl

theorem storeTarget_withHidden (t : Target) (v k : Word) (p q : Table) (s : State) :
    storeTarget t v (withHidden k p q s) = withHidden k p q (storeTarget t v s) := by
  cases t <;> rfl

theorem writeData_withHidden (t : Target) (v k : Word) (p q : Table) (s : State) :
    writeData t v (withHidden k p q s) = withHidden k p q (writeData t v s) := by
  rw [writeData, writeData, withHidden_busy]
  split
  · rfl
  · exact storeTarget_withHidden t v k p q s

theorem writeCmd_withHidden (w k : Word) (p q : Table) (s : State) :
    writeCmd w (withHidden k p q s) = withHidden k p q (writeCmd w s) := by
  rw [writeCmd, writeCmd, withHidden_busy]
  split
  · rfl
  · rfl

theorem busRead_withHidden (t : Target) (k : Word) (p q : Table) (s : State) :
    busRead t (withHidden k p q s) = ((busRead t s).1, withHidden k p q (busRead t s).2) := by
  rw [busRead, busRead, withHidden_busy, targetValue_withHidden]
  split
  · rfl
  · rfl

theorem busWrite_withHidden (t : Target) (v k : Word) (p q : Table) (s : State) :
    busWrite t v (withHidden k p q s) = ((busWrite t v s).1, withHidden k p q (busWrite t v s).2) := by
  rw [busWrite, busWrite, writeCmd_withHidden, writeData_withHidden]
  split
  · rfl
  · split
    · rfl
    · split
      · rfl
      · rfl

/-- No access reads or writes KEY or a table. -/
theorem busAccess_withHidden (a : Access) (k : Word) (p q : Table) (s : State) :
    busAccess a (withHidden k p q s) = ((busAccess a s).1, withHidden k p q (busAccess a s).2) := by
  unfold busAccess
  rw [withHidden_cfg]
  split
  · rfl
  · cases targetAt s.cfg a.addr.toNat with
    | none => rfl
    | some t =>
      cases a.write with
      | none => exact busRead_withHidden t k p q s
      | some v => exact busWrite_withHidden t v k p q s

/-- Settles O19: the answer and every other field come from what `withHidden` leaves alone. -/
theorem keyAndTablesHaveNoAddress : Obligations.KeyAndTablesHaveNoAddress :=
  fun s a k t u => busAccess_withHidden a k t u s

/-! ## Tables that are not loaded make no difference (R51) -/

/-- The state with other tables. -/
def withTables (p q : Table) (s : State) : State := { s with sbox := p, invSbox := q }

theorem withHidden_of_key_eq {k : Word} (p q : Table) {s : State} (h : s.key = k) :
    withHidden k p q s = withTables p q s := by
  subst h; rfl

theorem busAccess_withTables (a : Access) (p q : Table) (s : State) :
    busAccess a (withTables p q s) = ((busAccess a s).1, withTables p q (busAccess a s).2) := by
  have hkey : (busAccess a s).2.key = s.key := (busAccess_sameSession a s).1
  rw [← withHidden_of_key_eq p q hkey]
  exact busAccess_withHidden a s.key p q s

@[simp] theorem withTables_host (p q : Table) (s : State) : (withTables p q s).host = s.host := rfl
@[simp] theorem withTables_sboxValid (p q : Table) (s : State) : (withTables p q s).sboxValid = s.sboxValid := rfl

theorem hostStep_withTables (p q : Table) (s : State) :
    hostStep busAccess (withTables p q s) = withTables p q (hostStep busAccess s) := by
  unfold hostStep
  rw [withTables_host]
  cases s.host.script[s.host.pos]? with
  | none => rfl
  | some op =>
    cases op with
    | access a => simp only [busAccess_withTables]; rfl
    | jbs target b | jbc target b | halt => rfl

/-- `SameUntilLoaded t t'`: the states differ in their tables at most, and not where the tables are loaded. -/
def SameUntilLoaded (t t' : State) : Prop :=
  t' = { t with sbox := t'.sbox, invSbox := t'.invSbox } ∧ (t.sboxValid = true → t' = t)

theorem SameUntilLoaded.refl (t : State) : SameUntilLoaded t t := ⟨rfl, fun _ => rfl⟩

theorem sameUntilLoaded_withTables (p q : Table) {t : State} (h : t.sboxValid = false) :
    SameUntilLoaded t (withTables p q t) :=
  ⟨rfl, fun hv => (Bool.false_ne_true (h.symm.trans hv)).elim⟩

theorem command_noSbox {s : State} (cs : List Check) (body : State → State) (h : s.sboxValid = false) :
    command s (needSbox s :: cs) body = .next (raise .noSbox s) := by
  simp [command, firstFailing, needSbox, h]

/-- Every command that uses a table raises NO_SBOX while none is loaded (R52, R332). -/
theorem exec_noSbox {i : Instr} {s : State} (hi : usesSbox i = true) (h : s.sboxValid = false) :
    exec i s = .next (raise .noSbox s) := by
  cases i with
  | sboxRd imm => exact (exec_sboxRd imm s).trans (command_noSbox _ _ h)
  | subst => exact (exec_subst s).trans (command_noSbox _ _ h)
  | isubst => exact (exec_isubst s).trans (command_noSbox _ _ h)
  | roundf imm => exact (exec_roundf imm s).trans (command_noSbox _ _ h)
  | encRound imm => exact (exec_encRound imm s).trans (command_noSbox _ _ h)
  | decRound imm => exact (exec_decRound imm s).trans (command_noSbox _ _ h)
  | encBlk => exact (exec_encBlk s).trans (command_noSbox _ _ h)
  | decBlk => exact (exec_decBlk s).trans (command_noSbox _ _ h)
  | encMsg => exact (exec_encMsg s).trans (command_noSbox _ _ h)
  | decMsg => simp [exec_decMsg, execDecMsg, decMsgChecks, firstFailing, needSbox, h]
  | nop | keyLoad | sboxLoad | rotl16 imm | lfsrStep | perm | iperm => exact (Bool.false_ne_true hi).elim

/-- A command that checks nothing and whose body reads and writes no table is blind to the tables. -/
theorem exec_withTables_of_body {i : Instr} {s t : State} {body : State → State} (p q : Table)
    (hexec : ∀ s, exec i s = command s [] body) (hbody : body (withTables p q s) = withTables p q (body s))
    (hv : (body s).sboxValid = false) (h : exec i s = .next t) :
    ∃ t', exec i (withTables p q s) = .next t' ∧ SameUntilLoaded t t' := by
  rw [hexec, command_nil] at h ⊢
  obtain rfl := Host.Outcome.next.inj h
  rw [hbody]
  exact ⟨_, rfl, sameUntilLoaded_withTables p q hv⟩

theorem exec_withTables {i : Instr} {s t : State} (p q : Table) (hv : s.sboxValid = false) (h : exec i s = .next t) :
    ∃ t', exec i (withTables p q s) = .next t' ∧ SameUntilLoaded t t' := by
  cases i with
  | sboxRd imm | subst | isubst | roundf imm | encRound imm | decRound imm | encBlk | decBlk | encMsg | decMsg =>
    obtain rfl := eq_of_next (exec_noSbox rfl hv) h
    exact ⟨_, exec_noSbox rfl hv, sameUntilLoaded_withTables p q hv⟩
  | nop => exact exec_withTables_of_body p q exec_nop rfl hv h
  | rotl16 imm => exact exec_withTables_of_body p q (exec_rotl16 imm) rfl hv h
  | lfsrStep => exact exec_withTables_of_body p q exec_lfsrStep rfl hv h
  | perm => exact exec_withTables_of_body p q exec_perm rfl hv h
  | iperm => exact exec_withTables_of_body p q exec_iperm rfl hv h
  | keyLoad =>
    rw [exec_keyLoad, command_nil] at h ⊢
    obtain rfl := Host.Outcome.next.inj h
    exact ⟨_, rfl, .refl _⟩
  | sboxLoad =>
    rw [exec_sboxLoad] at h
    have hfail : firstFailing [(isPerm (hostTable (withTables p q s)), .notPermutation)] =
      firstFailing [(isPerm (hostTable s), .notPermutation)] := rfl
    rw [exec_sboxLoad, command, hfail]
    rcases next_of_command h with ⟨e, he, rfl⟩ | ⟨hok, rfl⟩
    · rw [he]; exact ⟨_, rfl, sameUntilLoaded_withTables p q hv⟩
    · rw [hok]; exact ⟨_, rfl, .refl _⟩

theorem complete_withTables {s t : State} (p q : Table) (hv : s.sboxValid = false) (h : complete s = .next t) :
    ∃ t', complete (withTables p q s) = .next t' ∧ SameUntilLoaded t t' := by
  unfold complete at h ⊢
  rw [show (withTables p q s).pend = s.pend from rfl]
  cases hp : s.pend with
  | none =>
    rw [hp] at h
    obtain rfl := Host.Outcome.next.inj h
    exact ⟨_, rfl, sameUntilLoaded_withTables p q hv⟩
  | some w =>
    simp only [hp] at h ⊢
    cases hd : decode w with
    | error e =>
      rw [hd] at h
      obtain rfl := Host.Outcome.next.inj h
      exact ⟨_, rfl, sameUntilLoaded_withTables p q hv⟩
    | ok i =>
      rw [hd] at h
      exact exec_withTables p q hv h

theorem takeTurn_withTables {ev : Turn} {s t : State} (p q : Table) (hv : s.sboxValid = false)
    (h : takeTurn ev s = .next t) : ∃ t', takeTurn ev (withTables p q s) = .next t' ∧ SameUntilLoaded t t' := by
  cases ev with
  | host =>
    obtain rfl := Host.Outcome.next.inj h
    obtain ⟨-, -, -, -, hsbox⟩ := hostStep_sameSession s
    exact ⟨_, congrArg Host.Outcome.next (hostStep_withTables p q s), sameUntilLoaded_withTables p q (hsbox.trans hv)⟩
  | engine => exact complete_withTables p q hv h
  | reset | hostInReset =>
    obtain rfl := Host.Outcome.next.inj h
    exact ⟨_, rfl, .refl _⟩

/-- Settles O27: the host never sees a table, a command that uses one raises NO_SBOX, and a load overwrites both. -/
theorem unloadedTablesAreNeverObserved : Obligations.UnloadedTablesAreNeverObserved := by
  intro s t p q hv h
  exact takeTurn_withTables (ev := nextTurn s) (s := spendTurn s) p q hv h

/-! ## Frames of the commands (R57, R153) -/

/-- What no command's body touches: the operands, the surroundings and IBUF. -/
theorem BodyEffect.frame {s u : State} (hu : BodyEffect s u) :
    SameOperands s u ∧ SameSurroundings s u ∧ u.ibuf = s.ibuf := by
  cases hu <;> exact ⟨⟨rfl, rfl, rfl, rfl⟩, ⟨rfl, rfl, rfl, rfl, rfl, rfl⟩, rfl⟩

/-- The frame of every command: it completes and leaves the operands, the surroundings and IBUF unchanged. -/
theorem exec_frame {i : Instr} {s t : State} (h : exec i s = .next t) :
    Completed t ∧ SameOperands s t ∧ SameSurroundings s t ∧ SameBytes s.ibuf t.ibuf := by
  obtain ⟨u, hu, ht⟩ := exec_completesBody h
  obtain ⟨hops, hsur, hibuf⟩ := hu.frame
  have hbytes : SameBytes s.ibuf u.ibuf := fun a => by rw [hibuf]
  rcases ht with rfl | ⟨e, rfl⟩
  · exact ⟨⟨rfl, rfl⟩, hops, hsur, hbytes⟩
  · exact ⟨⟨rfl, rfl⟩, hops, hsur, hbytes⟩

theorem sameSession_raise (e : ErrKind) (s : State) : SameSession s (raise e s) := ⟨rfl, rfl, rfl, rfl, rfl⟩

theorem sameBytes_refl (m : Memory) : SameBytes m m := fun _ => rfl

/-- Settles O56: each of the commands is checks and a write of DOUT. -/
theorem doutCommandsFrame : Obligations.DoutCommandsFrame := by
  intro i s t hi h
  obtain ⟨hdone, hops, hsur, hibuf⟩ := exec_frame h
  obtain ⟨cs, v, hexec⟩ := exec_of_writesOnlyDout hi s
  rcases next_of_command (hexec.symm.trans h) with ⟨e, -, rfl⟩ | ⟨-, rfl⟩
  · exact ⟨hdone, rfl, rfl, rfl, sameSession_raise e s, hops, hsur, hibuf, sameBytes_refl _, .inr ⟨rfl, rfl⟩⟩
  · exact ⟨hdone, rfl, rfl, rfl, ⟨rfl, rfl, rfl, rfl, rfl⟩, hops, hsur, hibuf, sameBytes_refl _, .inl ⟨rfl, rfl⟩⟩

/-- Settles O57, command by command; SBOX_LOAD with and without its error. -/
theorem sessionCommandsFrame : Obligations.SessionCommandsFrame := by
  intro i s t hi h
  obtain ⟨hdone, hops, hsur, hibuf⟩ := exec_frame h
  rcases hi with rfl | rfl | rfl
  · obtain rfl := eq_of_next (exec_nop s) h
    exact ⟨hdone, rfl, rfl, rfl, rfl, hops, hsur, hibuf, sameBytes_refl _, fun _ => ⟨rfl, rfl, rfl, rfl, rfl⟩, nofun,
      .inl ⟨rfl, rfl⟩⟩
  · obtain rfl := eq_of_next (exec_keyLoad s) h
    exact ⟨hdone, rfl, rfl, rfl, rfl, hops, hsur, hibuf, sameBytes_refl _, nofun, nofun, .inl ⟨rfl, rfl⟩⟩
  · rcases next_of_command ((exec_sboxLoad s).symm.trans h) with ⟨e, -, rfl⟩ | ⟨-, rfl⟩
    · exact ⟨hdone, rfl, rfl, rfl, rfl, hops, hsur, hibuf, sameBytes_refl _, nofun, fun _ => ⟨rfl, rfl⟩,
        .inr ⟨rfl, sameSession_raise e s⟩⟩
    · exact ⟨hdone, rfl, rfl, rfl, rfl, hops, hsur, hibuf, sameBytes_refl _, nofun, fun _ => ⟨rfl, rfl⟩,
        .inl ⟨rfl, rfl⟩⟩

/-- A block command is checks and the results of a block function. -/
theorem exec_of_block {i : Instr} (hi : i = .encBlk ∨ i = .decBlk) (s : State) :
    ∃ (cs : List Check) (r : State → Word × Word × List Half), exec i s = command s cs fun s => setBlock (r s) s := by
  rcases hi with rfl | rfl
  · exact ⟨_, _, exec_encBlk s⟩
  · exact ⟨_, _, exec_decBlk s⟩

/-- Settles O58: LFSR_STEP has no check, and a block command is checks and the write of its results. -/
theorem lfsrAndBlockCommandsFrame : Obligations.LfsrAndBlockCommandsFrame := by
  intro i s t hi h
  obtain ⟨hdone, hops, hsur, hibuf⟩ := exec_frame h
  rcases hi with rfl | hi
  · obtain rfl := eq_of_next (exec_lfsrStep s) h
    exact ⟨hdone, rfl, ⟨rfl, rfl, rfl, rfl, rfl⟩, hops, hsur, hibuf, sameBytes_refl _, fun _ => rfl, .inl ⟨rfl, rfl⟩⟩
  · have hne : i ≠ .lfsrStep := by rintro rfl; simp at hi
    obtain ⟨cs, r, hexec⟩ := exec_of_block hi s
    rcases next_of_command (hexec.symm.trans h) with ⟨e, -, rfl⟩ | ⟨-, rfl⟩
    · exact ⟨hdone, rfl, sameSession_raise e s, hops, hsur, hibuf, sameBytes_refl _, (absurd · hne),
        .inr ⟨rfl, rfl, rfl, rfl⟩⟩
    · exact ⟨hdone, rfl, ⟨rfl, rfl, rfl, rfl, rfl⟩, hops, hsur, hibuf, sameBytes_refl _, (absurd · hne),
        .inl ⟨rfl, rfl⟩⟩

/-- A buffer written from 0 keeps its bytes beyond the ones written. -/
theorem sameBytesFrom_memWrite (m : Memory) (out : List Byte) : SameBytesFrom out.length m (memWrite m 0 out) := by
  intro a ha
  rw [byte?_memWrite, if_neg (by omega)]

/-- A message command that stores `n` bytes changes DOUT, the session and OBUF beyond them not at all. -/
theorem MessageOutcome.frame {n : Nat} {s t : State} (h : MessageOutcome n s t) :
    t.dout = s.dout ∧ SameSession s t ∧ SameBytesFrom n s.obuf t.obuf := by
  cases h with
  | early e => exact ⟨rfl, sameSession_raise e s, fun _ _ => rfl⟩
  | stored out k l sk hlen hfit =>
    exact ⟨rfl, ⟨rfl, rfl, rfl, rfl, rfl⟩, hlen ▸ sameBytesFrom_memWrite s.obuf out⟩
  | late e out k l sk hlen hfit =>
    exact ⟨rfl, ⟨rfl, rfl, rfl, rfl, rfl⟩, hlen ▸ sameBytesFrom_memWrite s.obuf out⟩

/-- Settles O59, by the number of bytes each of the two commands stores. -/
theorem messageCommandsFrame : Obligations.MessageCommandsFrame := by
  intro i s t hi h
  obtain ⟨hdone, hops, hsur, hibuf⟩ := exec_frame h
  rcases hi with rfl | rfl
  · obtain ⟨hdout, hsession, hobuf⟩ := (encMsg_outcome h).frame
    exact ⟨hdone, hdout, hsession, hops, hsur, hibuf, hobuf⟩
  · obtain ⟨hdout, hsession, hobuf⟩ := (decMsg_outcome h).frame
    exact ⟨hdone, hdout, hsession, hops, hsur, hibuf, hobuf⟩

/-! ## STATUS (R36, R37) and the reset values (R56) -/

/-- The only bit of `flagBit b i` is bit `i`. -/
theorem getLsbD_flagBit (b : Bool) (i j : Nat) (hj : j < 32) : (flagBit b i).getLsbD j = (decide (j = i) && b) := by
  rw [flagBit, BitVec.getLsbD_shiftLeft, BitVec.getLsbD_setWidth, BitVec.getLsbD_ofBool]
  by_cases h : j = i
  · simp [h, show i < 32 by omega]
  · by_cases hlt : j < i
    · simp [h, hlt]
    · simp [h, show j - i ≠ 0 by omega]

/-- The bits of STATUS (R36). -/
theorem getLsbD_statusWord (s : State) (j : Nat) (hj : j < 32) : (statusWord s).getLsbD j =
    (decide (j = 0) && s.busy || decide (j = 1) && s.done || decide (j = 2) && s.err || decide (j = 4) && s.keyValid ||
      decide (j = 5) && s.sboxValid || !decide (j < 8) && s.errCode.getLsbD (j - 8) || decide (j = 16) && s.cmdOvr ||
      decide (j = 17) && s.wrIgn) := by
  have herr : (s.errCode.setWidth 32 <<< 8).getLsbD j = (!decide (j < 8) && s.errCode.getLsbD (j - 8)) := by
    simp [hj]
  simp only [statusWord, BitVec.getLsbD_or, getLsbD_flagBit _ _ _ hj, herr]

/-- Settles O15: each field is the one term of `getLsbD_statusWord` at its position, and a reserved bit has none. -/
theorem statusShowsItsFields : Obligations.StatusShowsItsFields := by
  intro s
  have bit := getLsbD_statusWord s
  refine ⟨(bit 0 (by decide)).trans (by simp [State.busy]), (bit 1 (by decide)).trans (by simp),
    (bit 2 (by decide)).trans (by simp), (bit 4 (by decide)).trans (by simp), (bit 5 (by decide)).trans (by simp), ?_,
    (bit 16 (by decide)).trans (by simp), (bit 17 (by decide)).trans (by simp), ?_⟩
  · apply BitVec.eq_of_getLsbD_eq
    intro i hi
    rw [BitVec.getLsbD_extractLsb', bit (8 + i) (by omega)]
    simp [hi, show 8 + i ≠ 1 by omega, show 8 + i ≠ 2 by omega, show 8 + i ≠ 4 by omega, show 8 + i ≠ 5 by omega,
      show 8 + i ≠ 16 by omega, show 8 + i ≠ 17 by omega]
  · intro i hi
    by_cases h32 : i < 32
    · have hcode : (!decide (i < 8) && s.errCode.getLsbD (i - 8)) = false := by
        by_cases h8 : i < 8
        · simp [h8]
        · simp [BitVec.getLsbD_of_ge s.errCode (i - 8) (by omega)]
      rw [bit i h32, hcode]
      simp [show i ≠ 0 by omega, show i ≠ 1 by omega, show i ≠ 2 by omega, show i ≠ 4 by omega, show i ≠ 5 by omega,
        show i ≠ 16 by omega, show i ≠ 17 by omega]
    · exact BitVec.getLsbD_of_ge _ _ (by omega)

/-- A write to STATUS, the address 0x0004, is `writeStatus`, and answered OK. -/
theorem busAccess_statusWrite (s : State) (v : Word) :
    busAccess ⟨32, 0x0004#16, some v⟩ s = (.ok 0#32, writeStatus v s) := by
  have htgt : targetAt s.cfg (0x0004#16).toNat = some .status := rfl
  rw [busAccess, if_neg (by simp), htgt]
  rfl

/-- Settles O16: BUSY plays no part in a STATUS write. -/
theorem statusWriteClearsStickyFlags : Obligations.StatusWriteClearsStickyFlags := by
  intro s v
  refine ⟨0#32, writeStatus v s, busAccess_statusWrite s v, rfl, ?_, ?_, ?_, ?_⟩ <;> intro hv
  · rw [writeStatus_cmdOvr, hv, Bool.not_true, Bool.and_false]
  · rw [writeStatus_cmdOvr, hv, Bool.not_false, Bool.and_true]
  · rw [writeStatus_wrIgn, hv, Bool.not_true, Bool.and_false]
  · rw [writeStatus_wrIgn, hv, Bool.not_false, Bool.and_true]

/-- Settles O22, field by field; the buffers list no byte. -/
theorem resetStateHoldsTheResetValues : Obligations.ResetStateHoldsTheResetValues := by
  have hstatus : statusWord State.reset = 0#32 := by decide
  have hsklog : ∀ i : Fin 16, State.reset.sklog[i] = 0#16 := by decide
  exact ⟨rfl, hstatus, rfl, rfl, rfl, rfl, rfl, rfl, rfl, rfl, rfl, rfl, rfl, rfl, hsklog, fun _ => rfl, fun _ => rfl⟩

end Sys2Proof.Machine
end

section
/-! Proofs of the statements of 20_memory.md. Four lemmas carry them: `targetAt_of_mapped` reads off the address map what
an access addresses (R81), `writeData_busy` and `busRead_contested` say what BUSY changes in a write and in a read (R87,
R88), and `busAccess_busy` says all that any access can change while a command is pending. -/

namespace Sys2Proof.Machine

/-! ## The address map (R81) -/

theorem targetAt_register {a : Nat} (cfg : Config) (h : a < 0x40) : targetAt cfg a = registerAt a := if_pos h

theorem targetAt_sklogWindow {a : Nat} (cfg : Config) (hlow : 0x40 ≤ a) (hhigh : a ≤ 0x7C) :
    targetAt cfg a = some (.sklog (Fin.ofNat 16 ((a - 0x40) / 4))) := by
  rw [targetAt, if_neg (by omega), if_pos (by omega)]

theorem targetAt_ibufWindow {cfg : Config} {a : Nat} (hlow : 0x4000 ≤ a) (hhigh : a < 0x4000 + cfg.msgMaxBytes) :
    targetAt cfg a = some (.ibuf (a - 0x4000)) := by
  rw [targetAt, if_neg (by omega), if_neg (by omega), if_pos ⟨hlow, hhigh⟩]

theorem targetAt_obufWindow {cfg : Config} {a : Nat} (hlow : 0x8000 ≤ a) (hhigh : a < 0x8000 + cfg.msgMaxBytes + 4) :
    targetAt cfg a = some (.obuf (a - 0x8000)) := by
  have hcap := cfg.fitsWindow
  rw [targetAt, if_neg (by omega), if_neg (by omega), if_neg (by omega), if_pos ⟨hlow, hhigh⟩]

/-- The register block is full up to PARAM at 0x28 and empty beyond it (R34). -/
theorem registerAt_isSome : ∀ a < 0x40, a % 4 = 0 → ((registerAt a).isSome ↔ a ≤ 0x28) := by decide

theorem targetAt_of_unmapped {cfg : Config} {a : Nat} (ha : a % 4 = 0) (h : ¬MappedAddress cfg a) :
    targetAt cfg a = none := by
  simp only [MappedAddress, not_or, not_and] at h
  obtain ⟨hreg, hsklog, hibuf, hobuf⟩ := h
  by_cases hlow : a < 0x40
  · rw [targetAt_register cfg hlow, ← Option.not_isSome_iff_eq_none, registerAt_isSome a hlow ha]
    exact hreg
  · rw [targetAt, if_neg hlow, if_neg (by omega), if_neg (by omega), if_neg (by simp only [Config.obufBytes]; omega)]

/-- The read-only registers are LAST_CMD, DOUT, OUT_LEN and PARAM (R86 item 3). -/
theorem registerAt_readOnly {a : Nat} {t : Target} (h : registerAt a = some t) :
    t.readOnly = true ↔ a = 0x08 ∨ a = 0x1C ∨ a = 0x24 ∨ a = 0x28 := by
  unfold registerAt at h
  split at h <;> cases h <;> simp [Target.readOnly]

/-- A mapped address names a target, a read-only one exactly at the read-only addresses (R86 item 3). -/
theorem targetAt_of_mapped {cfg : Config} {a : Nat} (ha : a % 4 = 0) (h : MappedAddress cfg a) :
    ∃ t, targetAt cfg a = some t ∧ (t.readOnly = true ↔ ReadOnlyAddress a) := by
  have hcap := cfg.fitsWindow
  rcases h with hreg | ⟨hlow, hhigh⟩ | ⟨hlow, hhigh⟩ | ⟨hlow, hhigh⟩
  · obtain ⟨t, ht⟩ := Option.isSome_iff_exists.1 ((registerAt_isSome a (by omega) ha).2 hreg)
    refine ⟨t, (targetAt_register cfg (by omega)).trans ht, ?_⟩
    rw [registerAt_readOnly ht, ReadOnlyAddress]
    omega
  · exact ⟨_, targetAt_sklogWindow cfg hlow hhigh, by simp [Target.readOnly, ReadOnlyAddress, hlow, hhigh]⟩
  · refine ⟨_, targetAt_ibufWindow hlow hhigh, ?_⟩
    simp only [Target.readOnly, ReadOnlyAddress, Bool.false_eq_true, false_iff]
    omega
  · exact ⟨_, targetAt_obufWindow hlow hhigh, by simp [Target.readOnly, ReadOnlyAddress, hlow]⟩

/-- `IsData t`: a write to `t` is neither refused nor one to CMD or STATUS (R86 items 3 to 6). -/
def Target.IsData (t : Target) : Prop := t.readOnly = false ∧ t ≠ .cmd ∧ t ≠ .status

theorem Target.isData_rounds : Target.rounds.IsData := ⟨rfl, nofun, nofun⟩
theorem Target.isData_lfsr : Target.lfsr.IsData := ⟨rfl, nofun, nofun⟩
theorem Target.isData_din0 : Target.din0.IsData := ⟨rfl, nofun, nofun⟩
theorem Target.isData_din1 : Target.din1.IsData := ⟨rfl, nofun, nofun⟩
theorem Target.isData_msgLen : Target.msgLen.IsData := ⟨rfl, nofun, nofun⟩
theorem Target.isData_ibuf (off : Nat) : (Target.ibuf off).IsData := ⟨rfl, nofun, nofun⟩

theorem targetAt_of_dataAddress {cfg : Config} {a : Nat} (h : DataAddress cfg a) :
    ∃ t, targetAt cfg a = some t ∧ t.IsData := by
  rcases h with rfl | rfl | rfl | rfl | rfl | ⟨hlow, hhigh⟩
  · exact ⟨_, rfl, Target.isData_rounds⟩
  · exact ⟨_, rfl, Target.isData_lfsr⟩
  · exact ⟨_, rfl, Target.isData_din0⟩
  · exact ⟨_, rfl, Target.isData_din1⟩
  · exact ⟨_, rfl, Target.isData_msgLen⟩
  · exact ⟨_, targetAt_ibufWindow hlow hhigh, Target.isData_ibuf _⟩

theorem targetAt_of_contestedAddress {cfg : Config} {a : Nat} (h : ContestedAddress cfg a) :
    ∃ t, targetAt cfg a = some t ∧ t.contested = true := by
  rcases h with rfl | rfl | rfl | ⟨hlow, hhigh⟩ | ⟨hlow, hhigh⟩
  · exact ⟨.lfsr, rfl, rfl⟩
  · exact ⟨.dout, rfl, rfl⟩
  · exact ⟨.outLen, rfl, rfl⟩
  · exact ⟨_, targetAt_sklogWindow cfg hlow hhigh, rfl⟩
  · exact ⟨_, targetAt_obufWindow hlow hhigh, rfl⟩

/-! ## One access (R82, R86) -/

theorem busy_of_pending {s : State} (h : s.pend ≠ none) : s.busy = true :=
  (busy_iff s).2 (Option.ne_none_iff_exists'.1 h)

theorem busAccess_illegal {a : Access} (s : State) (h : a.width ≠ 32 ∨ a.addr.toNat % 4 ≠ 0) :
    busAccess a s = (.busErr, s) := if_pos h

theorem busAccess_unmapped {s : State} {a : BitVec 16} (write : Option Word) (ha : a.toNat % 4 = 0)
    (h : ¬MappedAddress s.cfg a.toNat) : busAccess ⟨32, a, write⟩ s = (.busErr, s) := by
  rw [busAccess, if_neg (by simp [ha]), targetAt_of_unmapped ha h]

theorem busAccess_read {s : State} {a : BitVec 16} {t : Target} (ha : a.toNat % 4 = 0)
    (ht : targetAt s.cfg a.toNat = some t) : busAccess ⟨32, a, none⟩ s = busRead t s := by
  rw [busAccess, if_neg (by simp [ha]), ht]

theorem busAccess_write {s : State} {a : BitVec 16} {t : Target} (v : Word) (ha : a.toNat % 4 = 0)
    (ht : targetAt s.cfg a.toNat = some t) : busAccess ⟨32, a, some v⟩ s = busWrite t v s := by
  rw [busAccess, if_neg (by simp [ha]), ht]

theorem busWrite_readOnly {t : Target} (v : Word) (s : State) (h : t.readOnly = true) :
    busWrite t v s = (.busErr, s) := if_pos h

theorem busWrite_answersOk {t : Target} (v : Word) (s : State) (h : ¬t.readOnly = true) :
    (busWrite t v s).1 = .ok 0#32 := by
  rw [busWrite, if_neg h]
  split
  · rfl
  · split <;> rfl

theorem busWrite_data {t : Target} (v : Word) (s : State) (h : t.IsData) :
    busWrite t v s = (.ok 0#32, writeData t v s) := by
  obtain ⟨hro, hcmd, hstatus⟩ := h
  rw [busWrite, if_neg (by simp [hro]), if_neg hcmd, if_neg hstatus]

theorem writeData_busy {s : State} (t : Target) (v : Word) (h : s.pend ≠ none) :
    writeData t v s = { s with wrIgn := true } := if_pos (busy_of_pending h)

theorem writeData_idle {s : State} (t : Target) (v : Word) (h : s.pend = none) :
    writeData t v s = storeTarget t v s := by
  rw [writeData, (not_busy_iff s).2 h, if_neg Bool.false_ne_true]

theorem busRead_contested {s : State} {t : Target} (h : s.pend ≠ none) (ht : t.contested = true) :
    busRead t s = (.ok (Config.drawWord s.draws), { s with draws := s.draws + 1 }) := by
  rw [busRead, busy_of_pending h, ht]; rfl

/-- A read that is not contested, or made while idle, is answered with the target's value. -/
theorem busRead_defined {s : State} {t : Target} (h : s.pend = none ∨ t.contested = false) :
    busRead t s = (.ok (targetValue t s), { s with draws := s.draws + t.drawsUsed }) := by
  have hdef : (s.busy && t.contested) = false := by
    rcases h with h | h
    · rw [(not_busy_iff s).2 h, Bool.false_and]
    · rw [h, Bool.and_false]
  rw [busRead, hdef, if_neg Bool.false_ne_true]

theorem busRead_answersOk (t : Target) (s : State) : ∃ v, (busRead t s).1 = .ok v := by
  unfold busRead
  split
  · exact ⟨_, rfl⟩
  · exact ⟨_, rfl⟩

/-- Settles O10, check by check in the order of R86. -/
theorem busErrorsAreExactlyThese : Obligations.BusErrorsAreExactlyThese := by
  rintro s ⟨width, addr, write⟩
  by_cases hbad : width ≠ 32 ∨ addr.toNat % 4 ≠ 0
  · rw [busAccess_illegal s hbad]
    exact ⟨⟨fun _ => or_assoc.1 (.inl hbad), fun _ => rfl⟩, fun _ => rfl⟩
  obtain ⟨rfl, ha⟩ : width = 32 ∧ addr.toNat % 4 = 0 := by simpa using hbad
  by_cases hmap : MappedAddress s.cfg addr.toNat
  · obtain ⟨t, ht, hro⟩ := targetAt_of_mapped ha hmap
    cases write with
    | none =>
      obtain ⟨v, hv⟩ := busRead_answersOk t s
      rw [busAccess_read ha ht, hv]
      simp [ha, hmap]
    | some v =>
      rw [busAccess_write v ha ht]
      by_cases hreadOnly : t.readOnly = true
      · rw [busWrite_readOnly v s hreadOnly]
        exact ⟨⟨fun _ => .inr (.inr (.inr ⟨nofun, hro.1 hreadOnly⟩)), fun _ => rfl⟩, fun _ => rfl⟩
      · rw [busWrite_answersOk v s hreadOnly]
        have hwritable := mt hro.2 hreadOnly
        refine ⟨⟨nofun, fun h => ?_⟩, nofun⟩
        rcases h with h | h | h | ⟨-, h⟩
        · exact absurd rfl h
        · exact absurd ha h
        · exact absurd hmap h
        · exact absurd h hwritable
  · rw [busAccess_unmapped write ha hmap]
    exact ⟨⟨fun _ => .inr (.inr (.inl hmap)), fun _ => rfl⟩, fun _ => rfl⟩

/-- Settles O11: each of the addresses names a data target. -/
theorem dataWritesWhileBusyAreDropped : Obligations.DataWritesWhileBusyAreDropped := by
  intro s a v hpend ha haddr
  obtain ⟨t, ht, hdata⟩ := targetAt_of_dataAddress haddr
  exact ⟨0#32, by rw [busAccess_write v ha ht, busWrite_data v s hdata, writeData_busy t v hpend]⟩

/-- A write to a data target while nothing is pending stores its value. -/
theorem busAccess_dataWrite {s : State} {a : BitVec 16} {t : Target} (v : Word) (ha : a.toNat % 4 = 0)
    (ht : targetAt s.cfg a.toNat = some t) (hdata : t.IsData) (hpend : s.pend = none) :
    busAccess ⟨32, a, some v⟩ s = (.ok 0#32, storeTarget t v s) := by
  rw [busAccess_write v ha ht, busWrite_data v s hdata, writeData_idle t v hpend]

/-- Settles O12, register by register; ROUNDS keeps the low byte. -/
theorem dataRegisterWritesStore : Obligations.DataRegisterWritesStore := by
  intro s v hpend
  have hrounds : v.setWidth 8 = v.extractLsb' 0 8 := BitVec.setWidth_eq_extractLsb' (by decide)
  refine ⟨⟨0#32, ?_⟩, ⟨0#32, ?_⟩, ⟨0#32, ?_⟩, ⟨0#32, ?_⟩, ⟨0#32, ?_⟩⟩
  · rw [← hrounds]
    exact busAccess_dataWrite v rfl rfl Target.isData_rounds hpend
  · exact busAccess_dataWrite v rfl rfl Target.isData_lfsr hpend
  · exact busAccess_dataWrite v rfl rfl Target.isData_din0 hpend
  · exact busAccess_dataWrite v rfl rfl Target.isData_din1 hpend
  · exact busAccess_dataWrite v rfl rfl Target.isData_msgLen hpend

/-- Settles O14: each of the addresses names a contested target. -/
theorem contestedReadsAreDraws : Obligations.ContestedReadsAreDraws := by
  intro s a hpend ha haddr
  obtain ⟨t, ht, hcontested⟩ := targetAt_of_contestedAddress haddr
  rw [busAccess_read ha ht, busRead_contested hpend hcontested]

/-! ## Reads of the registers (10_state.md section 3) -/

/-- A read of a register answers its value and changes nothing: no byte of it is unknown. -/
theorem busAccess_registerRead {s : State} {a : BitVec 16} {t : Target} (ha : a.toNat % 4 = 0)
    (ht : targetAt s.cfg a.toNat = some t) (hdraws : t.drawsUsed = 0) (hdef : s.pend = none ∨ t.contested = false) :
    busAccess ⟨32, a, none⟩ s = (.ok (targetValue t s), s) := by
  rw [busAccess_read ha ht, busRead_defined hdef, hdraws, Nat.add_zero]

/-- The address of word `k` of a window. -/
theorem toNat_wordAddress {base k : Nat} (h : base + 4 * k < 2 ^ 16) :
    (BitVec.ofNat 16 (base + 4 * k)).toNat = base + 4 * k := by
  rw [BitVec.toNat_ofNat, Nat.mod_eq_of_lt h]

/-- SKLOG[i] is the word at 0x40 + 4 i (R34). -/
theorem targetAt_sklogEntry (cfg : Config) (i : Fin 16) : targetAt cfg (0x40 + 4 * i.val) = some (.sklog i) := by
  rw [targetAt_sklogWindow cfg (by omega) (by omega)]
  congr 2
  apply Fin.ext
  simp

/-- The fields of PARAM (R48); MSG_MAX_BYTES fits its 16 bits (R11). -/
theorem paramWord_fields (cfg : Config) :
    (paramWord cfg).extractLsb' 24 8 = 0x01#8 ∧ (paramWord cfg).extractLsb' 16 8 = 0x10#8 ∧
      ((paramWord cfg).extractLsb' 0 16).toNat = cfg.msgMaxBytes := by
  have hcap := cfg.fitsWindow
  have hlow : (paramWord cfg).extractLsb' 0 16 = BitVec.ofNat 16 cfg.msgMaxBytes := BitVec.extractLsb'_append_eq_right
  refine ⟨BitVec.extractLsb'_append_eq_of_le (by decide), BitVec.extractLsb'_append_eq_of_le (by decide), ?_⟩
  rw [hlow, BitVec.toNat_ofNat, Nat.mod_eq_of_lt (by omega)]

/-- Settles O13, register by register. -/
theorem registersReadTheirValues : Obligations.RegistersReadTheirValues := by
  intro s
  refine ⟨?_, ?_, ?_, ?_, ?_, ?_, ?_, ⟨paramWord s.cfg, ?_, paramWord_fields s.cfg⟩,
    fun hpend => ⟨?_, ?_, ?_, fun i => ?_⟩⟩
  · exact busAccess_registerRead (t := .cmd) rfl rfl rfl (.inr rfl)
  · exact busAccess_registerRead (t := .status) rfl rfl rfl (.inr rfl)
  · exact busAccess_registerRead (t := .lastCmd) rfl rfl rfl (.inr rfl)
  · exact busAccess_registerRead (t := .rounds) rfl rfl rfl (.inr rfl)
  · exact busAccess_registerRead (t := .din0) rfl rfl rfl (.inr rfl)
  · exact busAccess_registerRead (t := .din1) rfl rfl rfl (.inr rfl)
  · exact busAccess_registerRead (t := .msgLen) rfl rfl rfl (.inr rfl)
  · exact busAccess_registerRead (t := .param) rfl rfl rfl (.inr rfl)
  · exact busAccess_registerRead (t := .lfsr) rfl rfl rfl (.inl hpend)
  · exact busAccess_registerRead (t := .dout) rfl rfl rfl (.inl hpend)
  · exact busAccess_registerRead (t := .outLen) rfl rfl rfl (.inl hpend)
  · have haddr := toNat_wordAddress (base := 0x40) (k := i.val) (by omega)
    refine busAccess_registerRead (t := .sklog i) ?_ ?_ rfl (.inl hpend)
    · rw [haddr]; omega
    · rw [haddr]; exact targetAt_sklogEntry s.cfg i

/-! ## The buffer windows (R83 to R85) -/

theorem windowWord_known {m : Memory} {off : Nat} {b0 b1 b2 b3 : Byte} (d : Nat) (h0 : Memory.byte? m off = some b0)
    (h1 : Memory.byte? m (off + 1) = some b1) (h2 : Memory.byte? m (off + 2) = some b2)
    (h3 : Memory.byte? m (off + 3) = some b3) : windowWord m off d = wordOfBytes b0 b1 b2 b3 := by
  simp [windowWord, readByte, h0, h1, h2, h3]

/-- A word stored in a buffer: its bytes are known, bits 31:24 first (R83). -/
theorem byte?_storedWord (m : Memory) (off : Nat) (v : Word) {i : Nat} (hi : i < 4) :
    Memory.byte? (memWrite m off (bytesOfWord v)) (off + i) = (bytesOfWord v)[i]? := by
  rw [byte?_memWrite, bytesOfWord_length, if_pos ⟨by omega, by omega⟩, Nat.add_sub_cancel_left]

theorem byte?_storedWord_other (m : Memory) (off : Nat) (v : Word) {a : Nat} (ha : a < off ∨ off + 3 < a) :
    Memory.byte? (memWrite m off (bytesOfWord v)) a = Memory.byte? m a := by
  rw [byte?_memWrite, bytesOfWord_length, if_neg (by omega)]

/-- An aligned word of the IBUF window (R84). -/
theorem ibufWord_target {cfg : Config} {k : Nat} (hk : 4 * k + 3 < cfg.msgMaxBytes) :
    (BitVec.ofNat 16 (0x4000 + 4 * k)).toNat % 4 = 0 ∧
      targetAt cfg (BitVec.ofNat 16 (0x4000 + 4 * k)).toNat = some (.ibuf (4 * k)) := by
  have hcap := cfg.fitsWindow
  rw [toNat_wordAddress (by omega), targetAt_ibufWindow (by omega) (by omega), Nat.add_sub_cancel_left]
  exact ⟨by omega, rfl⟩

/-- An aligned word of the OBUF window (R85). -/
theorem obufWord_target {cfg : Config} {k : Nat} (hk : 4 * k + 3 < cfg.msgMaxBytes + 4) :
    (BitVec.ofNat 16 (0x8000 + 4 * k)).toNat % 4 = 0 ∧
      targetAt cfg (BitVec.ofNat 16 (0x8000 + 4 * k)).toNat = some (.obuf (4 * k)) := by
  have hcap := cfg.fitsWindow
  rw [toNat_wordAddress (by omega), targetAt_obufWindow (by omega) (by omega), Nat.add_sub_cancel_left]
  exact ⟨by omega, rfl⟩

/-- A read of an IBUF word whose bytes are known, idle or busy: IBUF is never contested (R84, R88). -/
theorem busAccess_ibufRead {s : State} {k : Nat} {b0 b1 b2 b3 : Byte} (hk : 4 * k + 3 < s.cfg.msgMaxBytes)
    (h0 : Memory.byte? s.ibuf (4 * k) = some b0) (h1 : Memory.byte? s.ibuf (4 * k + 1) = some b1)
    (h2 : Memory.byte? s.ibuf (4 * k + 2) = some b2) (h3 : Memory.byte? s.ibuf (4 * k + 3) = some b3) :
    (busAccess ⟨32, BitVec.ofNat 16 (0x4000 + 4 * k), none⟩ s).1 = .ok (wordOfBytes b0 b1 b2 b3) := by
  obtain ⟨ha, ht⟩ := ibufWord_target hk
  rw [busAccess_read ha ht, busRead_defined (.inr rfl)]
  exact congrArg Response.ok (windowWord_known s.draws h0 h1 h2 h3)

/-- A read of an OBUF word whose bytes are known, while nothing is pending (R85, R88). -/
theorem busAccess_obufRead {s : State} {k : Nat} {b0 b1 b2 b3 : Byte} (hpend : s.pend = none)
    (hk : 4 * k + 3 < s.cfg.msgMaxBytes + 4) (h0 : Memory.byte? s.obuf (4 * k) = some b0)
    (h1 : Memory.byte? s.obuf (4 * k + 1) = some b1) (h2 : Memory.byte? s.obuf (4 * k + 2) = some b2)
    (h3 : Memory.byte? s.obuf (4 * k + 3) = some b3) :
    (busAccess ⟨32, BitVec.ofNat 16 (0x8000 + 4 * k), none⟩ s).1 = .ok (wordOfBytes b0 b1 b2 b3) := by
  obtain ⟨ha, ht⟩ := obufWord_target hk
  rw [busAccess_read ha ht, busRead_defined (.inl hpend)]
  exact congrArg Response.ok (windowWord_known s.draws h0 h1 h2 h3)

/-- Settles O17: the word written is four stored bytes, and the read puts them together again. -/
theorem bufferWindowsAreBigEndian : Obligations.BufferWindowsAreBigEndian := by
  refine ⟨fun s k v hk => ?_, fun s k b0 b1 b2 b3 hk => busAccess_ibufRead hk,
    fun s k b0 b1 b2 b3 hpend hk => busAccess_obufRead hpend hk⟩
  obtain ⟨ha, ht⟩ := ibufWord_target hk
  have hdata := Target.isData_ibuf (4 * k)
  refine ⟨fun hpend => ?_, fun hpend => ?_⟩
  · have byte {i : Nat} (hi : i < 4) := byte?_storedWord s.ibuf (4 * k) v hi
    have h0 := byte (i := 0) (by decide)
    have h1 := byte (i := 1) (by decide)
    have h2 := byte (i := 2) (by decide)
    have h3 := byte (i := 3) (by decide)
    refine ⟨0#32, _, busAccess_dataWrite v ha ht hdata hpend, rfl, h0, h1, h2, h3,
      fun a => byte?_storedWord_other s.ibuf (4 * k) v, ?_⟩
    have hread := busAccess_ibufRead (s := storeTarget (.ibuf (4 * k)) v s) hk h0 h1 h2 h3
    rwa [wordOfBytes_bytes] at hread
  · exact ⟨0#32, by rw [busAccess_write v ha ht, busWrite_data v s hdata, writeData_busy _ v hpend]⟩

/-! ## What an access leaves alone (R87, R91, R92) -/

/-- Settles O18: an access without data is no write. -/
theorem readsHaveNoSideEffect : Obligations.ReadsHaveNoSideEffect := by
  intro s a hread
  rcases busAccess_cases a s with ⟨-, hs⟩ | ⟨-, n, hs⟩ | ⟨v, hwrite, -⟩
  · exact ⟨s.draws, hs⟩
  · exact ⟨n, hs⟩
  · exact absurd (hread.symm.trans hwrite) nofun

/-- `OnlyFlagsAndHost s t`: `t` differs from `s` at most in the sticky flags, the host and the count of draws. -/
def OnlyFlagsAndHost (s t : State) : Prop :=
  ∃ ovr ign host n, t = { s with cmdOvr := ovr, wrIgn := ign, host := host, draws := n }

/-- An access while a command is pending sets or clears a sticky flag or counts a draw, and does nothing else. -/
theorem busAccess_busy (a : Access) {s : State} (h : s.pend ≠ none) : OnlyFlagsAndHost s (busAccess a s).2 := by
  rcases busAccess_cases a s with ⟨-, hs⟩ | ⟨-, n, hs⟩ | ⟨v, -, hs | hs | ⟨t, -, -, hs⟩⟩
  · exact ⟨s.cmdOvr, s.wrIgn, s.host, s.draws, hs⟩
  · exact ⟨s.cmdOvr, s.wrIgn, s.host, n, hs⟩
  · exact ⟨true, s.wrIgn, s.host, s.draws, hs.trans (if_pos (busy_of_pending h))⟩
  · exact ⟨_, _, s.host, s.draws, hs⟩
  · exact ⟨s.cmdOvr, true, s.host, s.draws, hs.trans (writeData_busy t v h)⟩

theorem hostStep_busy {s : State} (h : s.pend ≠ none) : OnlyFlagsAndHost s (hostStep busAccess s) := by
  rcases hostStep_cases busAccess s with ⟨host, hs⟩ | ⟨a, host, -, hs⟩
  · exact ⟨s.cmdOvr, s.wrIgn, host, s.draws, hs⟩
  · obtain ⟨ovr, ign, _, n, haccess⟩ := busAccess_busy a h
    exact ⟨ovr, ign, host, n, by rw [hs, haccess]⟩

/-- Settles O20: the sticky flags, the host and the count of draws are nothing a command reads. -/
theorem operandsAreFrozenWhilePending : Obligations.OperandsAreFrozenWhilePending := by
  intro s t hpend hturn hstep
  have hhost : step s = .next (hostStep busAccess (spendTurn s)) := by rw [step, hturn]; rfl
  obtain rfl := eq_of_next hhost hstep
  obtain ⟨ovr, ign, host, n, ht⟩ := hostStep_busy (s := spendTurn s) hpend
  rw [ht]
  exact ⟨rfl, ⟨rfl, rfl, rfl, rfl⟩, ⟨rfl, rfl, rfl, rfl, rfl⟩, rfl, sameBytes_refl _, sameBytes_refl _, rfl, rfl, rfl⟩

end Sys2Proof.Machine
end

section
/-! Proofs of the statements of 30_encoding.md. `decode_eq_ok_iff` says once which words decode: those with the OPC of a
row, RSV = 0 and an immediate the row's format allows. `decode_eq_row_iff` reads it for one row, and the rows and the
commands are matched by `row_of_instr` and `instr_of_row`. The host's turns are one lemma for each kind of statement. -/

namespace Sys2Proof

/-! ## The fields of a word under a mask (R121, R123) -/

theorem fields_append (w : Word) : opcField w ++ rsvField w ++ immField w = w := by
  have hhigh : opcField w ++ rsvField w = w.extractLsb' 16 16 :=
    BitVec.extractLsb'_append_extractLsb'_eq_extractLsb' (by decide)
  have hword : w.extractLsb' 16 16 ++ immField w = w.extractLsb' 0 32 :=
    BitVec.extractLsb'_append_extractLsb'_eq_extractLsb' (by decide)
  rw [hhigh, hword, BitVec.extractLsb'_eq_self]

theorem word_eq_iff_fields {v w : Word} :
    v = w ↔ opcField v = opcField w ∧ rsvField v = rsvField w ∧ immField v = immField w := by
  refine ⟨fun h => h ▸ ⟨rfl, rfl, rfl⟩, fun ⟨hopc, hrsv, himm⟩ => ?_⟩
  rw [← fields_append v, hopc, hrsv, himm, fields_append]

/-- The immediates a format allows (R121). -/
def Format.Allows : Format → Half → Prop
  | .z, imm => imm = 0#16
  | .i, _ => True
  | .s, imm => selectorLegal imm = true

theorem selectorLegal_iff (imm : Half) : selectorLegal imm = true ↔ imm.extractLsb' 2 14 = 0#14 := beq_iff_eq

/-- A half under the mask of IMM[15:2] is those fourteen bits, followed by two zeros. -/
theorem and_selectorMask (imm : Half) : imm &&& 0xFFFC#16 = imm.extractLsb' 2 14 ++ 0#2 := by
  have hsplit : imm.extractLsb' 2 14 ++ imm.extractLsb' 0 2 = imm := BitVec.extractLsb'_append_extractLsb'
  calc imm &&& 0xFFFC#16
      = (imm.extractLsb' 2 14 ++ imm.extractLsb' 0 2) &&& (BitVec.allOnes 14 ++ 0#2) := by rw [hsplit]; rfl
    _ = imm.extractLsb' 2 14 ++ 0#2 := by rw [BitVec.and_append, BitVec.and_allOnes, BitVec.and_zero]

/-- The low half of a format's mask keeps no bit of an immediate exactly when the format allows it. -/
theorem and_immMask_eq_zero_iff (f : Format) (imm : Half) :
    imm &&& immField (formatMask f) = 0#16 ↔ f.Allows imm := by
  cases f with
  | z =>
    rw [show immField (formatMask .z) = BitVec.allOnes 16 from rfl, BitVec.and_allOnes]
    rfl
  | i =>
    rw [show immField (formatMask .i) = 0#16 from rfl, BitVec.and_zero]
    exact iff_of_true rfl trivial
  | s =>
    rw [show immField (formatMask .s) = 0xFFFC#16 from rfl, and_selectorMask, Format.Allows, selectorLegal_iff]
    exact BitVec.append_left_inj 0#2 (s₂ := 0#14)

theorem opcMatch_eq_assembleWord (opc : BitVec 8) : opcMatch opc = assembleWord opc 0#16 := by
  apply BitVec.eq_of_getLsbD_eq
  intro i hi
  rw [opcMatch, BitVec.getLsbD_shiftLeft, BitVec.getLsbD_setWidth, getLsbD_assembleWord]
  by_cases h24 : i < 24
  · simp [h24]
  · simp [hi, h24, show ¬i < 16 by omega, show i - 24 < 32 by omega]

/-- `(w & mask) = match`, field by field (R123). -/
theorem and_formatMask_eq_opcMatch_iff (w : Word) (f : Format) (opc : BitVec 8) :
    w &&& formatMask f = opcMatch opc ↔ opcField w = opc ∧ rsvField w = 0#8 ∧ f.Allows (immField w) := by
  have hopc : opcField (w &&& formatMask f) = opcField w := by
    have hmask : opcField (formatMask f) = BitVec.allOnes 8 := by cases f <;> rfl
    calc opcField (w &&& formatMask f) = opcField w &&& opcField (formatMask f) := BitVec.extractLsb'_and
      _ = opcField w := by rw [hmask, BitVec.and_allOnes]
  have hrsv : rsvField (w &&& formatMask f) = rsvField w := by
    have hmask : rsvField (formatMask f) = BitVec.allOnes 8 := by cases f <;> rfl
    calc rsvField (w &&& formatMask f) = rsvField w &&& rsvField (formatMask f) := BitVec.extractLsb'_and
      _ = rsvField w := by rw [hmask, BitVec.and_allOnes]
  have himm : immField (w &&& formatMask f) = immField w &&& immField (formatMask f) := BitVec.extractLsb'_and
  rw [word_eq_iff_fields, hopc, hrsv, himm, opcMatch_eq_assembleWord, opcField_assembleWord, rsvField_assembleWord,
    immField_assembleWord, and_immMask_eq_zero_iff]

/-! ## The decoder and the opcode map (R122, R127) -/

/-- No two rows share an OPC (R122). -/
theorem row_eq_of_opc_eq {r r' : Row} (hr : r ∈ opcodeMap) (hr' : r' ∈ opcodeMap) (h : r.opc = r'.opc) : r = r' :=
  List.inj_on_of_nodup_map (f := Row.opc) (by decide) hr hr' h

theorem find?_opcodeMap_eq_some_iff {opc : BitVec 8} {r : Row} :
    opcodeMap.find? (fun r => r.opc == opc) = some r ↔ r ∈ opcodeMap ∧ r.opc = opc := by
  have found {r' : Row} (h : opcodeMap.find? (fun r => r.opc == opc) = some r') : r' ∈ opcodeMap ∧ r'.opc = opc :=
    ⟨List.mem_of_find?_eq_some h, beq_iff_eq.1 (List.find?_some (p := fun r : Row => r.opc == opc) h)⟩
  refine ⟨found, fun ⟨hr, hopc⟩ => ?_⟩
  have hsome : (opcodeMap.find? fun r => r.opc == opc).isSome := List.find?_isSome.2 ⟨r, hr, beq_iff_eq.2 hopc⟩
  obtain ⟨r', h⟩ := Option.isSome_iff_exists.1 hsome
  obtain ⟨hr', hopc'⟩ := found h
  rw [h, row_eq_of_opc_eq hr' hr (hopc'.trans hopc.symm)]

/-- What a word with the OPC of a row decodes to (R127). -/
theorem decode_of_opc {r : Row} {w : Word} (hr : r ∈ opcodeMap) (hopc : opcField w = r.opc) (i : Instr) :
    decode w = .ok i ↔ rsvField w = 0#8 ∧ r.format.Allows (immField w) ∧ r.make (immField w) = i := by
  unfold decode
  simp only [find?_opcodeMap_eq_some_iff.2 ⟨hr, hopc.symm⟩]
  by_cases hrsv : rsvField w = 0#8
  · cases hf : r.format with
    | z => by_cases h : immField w = 0#16 <;> simp [hrsv, h, Format.Allows]
    | i => simp [hrsv, Format.Allows]
    | s => by_cases h : selectorLegal (immField w) = true <;> simp [hrsv, h, Format.Allows]
  · simp [hrsv]

/-- R127: the words that decode, and to what. -/
theorem decode_eq_ok_iff {w : Word} {i : Instr} :
    decode w = .ok i ↔ ∃ r ∈ opcodeMap, opcField w = r.opc ∧ rsvField w = 0#8 ∧ r.format.Allows (immField w) ∧
      r.make (immField w) = i := by
  constructor
  · intro h
    have hfind : ∃ r, opcodeMap.find? (fun r => r.opc == opcField w) = some r := by
      unfold decode at h
      split at h
      · exact absurd h nofun
      · next r hr => exact ⟨r, hr⟩
    obtain ⟨r, hr⟩ := hfind
    obtain ⟨hmem, hopc⟩ := find?_opcodeMap_eq_some_iff.1 hr
    exact ⟨r, hmem, hopc.symm, (decode_of_opc hmem hopc.symm i).1 h⟩
  · rintro ⟨r, hr, hopc, h⟩
    exact (decode_of_opc hr hopc i).2 h

/-- Every command has a row, with its OPC and its format (R122). -/
theorem row_of_instr (i : Instr) : ∃ r ∈ opcodeMap, r.opc = opcOf i ∧ r.format = formatOf i ∧ r.make (immOf i) = i := by
  have hfind : ∃ name make, opcodeMap.find? (fun r => r.opc == opcOf i) = some ⟨opcOf i, name, formatOf i, make⟩ ∧
      make (immOf i) = i := by
    cases i <;> exact ⟨_, _, rfl, rfl⟩
  obtain ⟨name, make, hfind, hmake⟩ := hfind
  exact ⟨_, (find?_opcodeMap_eq_some_iff.1 hfind).1, rfl, rfl, hmake⟩

/-- A command is well formed when its format allows its immediate (R121). -/
theorem wellFormed_iff (i : Instr) : i.wellFormed = true ↔ (formatOf i).Allows (immOf i) := by
  cases i <;> simp [Instr.wellFormed, formatOf, immOf, Format.Allows]

/-- The command a row makes: the row's OPC and format, and every immediate the format allows (R122). -/
theorem instr_of_row {r : Row} (hr : r ∈ opcodeMap) (imm : Half) :
    opcOf (r.make imm) = r.opc ∧ formatOf (r.make imm) = r.format ∧
      (r.format.Allows imm → immOf (r.make imm) = imm) := by
  have hall : ∀ r ∈ opcodeMap, opcOf (r.make imm) = r.opc ∧ formatOf (r.make imm) = r.format ∧
      (r.format.Allows imm → immOf (r.make imm) = imm) := by
    simp +contextual [opcodeMap, tableSession, tableHalves, tableBlocks, opcOf, formatOf, immOf, Format.Allows]
  exact hall r hr

theorem decode_encode {i : Instr} (h : i.wellFormed = true) : decode (encode i) = .ok i := by
  obtain ⟨r, hr, hopc, hformat, hmake⟩ := row_of_instr i
  refine decode_eq_ok_iff.2 ⟨r, hr, ?_, ?_, ?_, ?_⟩
  · rw [encode, opcField_assembleWord, hopc]
  · rw [encode, rsvField_assembleWord]
  · rw [encode, immField_assembleWord, hformat]
    exact (wellFormed_iff i).1 h
  · rw [encode, immField_assembleWord, hmake]

/-- Settles O1: the row a word selects gives its command the word's own fields, and a command's word has the fields of
its row. -/
theorem decodeAndEncodeAgree : Obligations.DecodeAndEncodeAgree := by
  refine ⟨fun i => decode_encode, fun w i h => ?_⟩
  obtain ⟨r, hr, hopc, hrsv, hallows, rfl⟩ := decode_eq_ok_iff.1 h
  obtain ⟨hopc', hformat, himm⟩ := instr_of_row hr (immField w)
  refine ⟨?_, ?_⟩
  · rw [encode, hopc', himm hallows, ← hopc, word_of_fields w hrsv]
  · rw [wellFormed_iff, hformat, himm hallows]
    exact hallows

/-- A word selects a row by its OPC, with RSV = 0 and an immediate the row allows: no other row makes the same command. -/
theorem decode_eq_row_iff {r : Row} (hr : r ∈ opcodeMap) (w : Word) :
    decode w = .ok (r.make (immField w)) ↔
      opcField w = r.opc ∧ rsvField w = 0#8 ∧ r.format.Allows (immField w) := by
  refine ⟨fun h => ?_, fun ⟨hopc, hrsv, hallows⟩ => (decode_of_opc hr hopc _).2 ⟨hrsv, hallows, rfl⟩⟩
  obtain ⟨r', hr', hopc', -, -, hmake⟩ := decode_eq_ok_iff.1 h
  have hopc : opcField w = r.opc :=
    calc opcField w = r'.opc := hopc'
      _ = opcOf (r'.make (immField w)) := (instr_of_row hr' _).1.symm
      _ = r.opc := by rw [hmake, (instr_of_row hr _).1]
  obtain ⟨hrsv, hallows, -⟩ := (decode_of_opc hr hopc _).1 h
  exact ⟨hopc, hrsv, hallows⟩

/-- Settles O2: the mask and the match compare the three fields one by one. -/
theorem wordSelectsRowByMaskAndMatch : Obligations.WordSelectsRowByMaskAndMatch := by
  refine ⟨fun r hr w => ?_, rfl, rfl⟩
  exact (decode_eq_row_iff hr w).trans (and_formatMask_eq_opcMatch_iff w r.format r.opc).symm

/-! ## Illegal words (R128) -/

/-- The OPCs of the rows of one format (R122). -/
def opcsOf (f : Format) : List (BitVec 8) := (opcodeMap.filter fun r => r.format = f).map Row.opc

theorem mem_opcsOf {f : Format} {opc : BitVec 8} : opc ∈ opcsOf f ↔ ∃ r ∈ opcodeMap, r.format = f ∧ r.opc = opc := by
  simp [opcsOf, and_assoc]

/-- R128, read off the rows. -/
theorem decode_error_iff (w : Word) :
    (∃ e, decode w = .error e) ↔
      opcField w ∉ opcodeMap.map Row.opc ∨ rsvField w ≠ 0#8 ∨
        ∃ r ∈ opcodeMap, r.opc = opcField w ∧ ¬r.format.Allows (immField w) := by
  have herror : (∃ e, decode w = .error e) ↔ ¬∃ i, decode w = .ok i := by cases decode w <;> simp
  simp only [herror, decode_eq_ok_iff]
  constructor
  · intro h
    by_cases hopc : opcField w ∈ opcodeMap.map Row.opc
    · obtain ⟨r, hr, hopc⟩ := List.mem_map.1 hopc
      by_cases hrsv : rsvField w = 0#8
      · exact .inr (.inr ⟨r, hr, hopc, fun hallows => h ⟨_, r, hr, hopc.symm, hrsv, hallows, rfl⟩⟩)
      · exact .inr (.inl hrsv)
    · exact .inl hopc
  · rintro h ⟨i, r, hr, hopc, hrsv, hallows, -⟩
    rcases h with h | h | ⟨r', hr', hopc', h⟩
    · exact h (List.mem_map.2 ⟨r, hr, hopc.symm⟩)
    · exact h hrsv
    · exact h (row_eq_of_opc_eq hr' hr (hopc'.trans hopc) ▸ hallows)

/-- The rows that do not allow an immediate, by format: format I allows every one (R121). -/
theorem exists_row_forbids_iff (opc : BitVec 8) (imm : Half) :
    (∃ r ∈ opcodeMap, r.opc = opc ∧ ¬r.format.Allows imm) ↔
      (opc ∈ opcsOf .z ∧ imm ≠ 0#16) ∨ (opc ∈ opcsOf .s ∧ imm.extractLsb' 2 14 ≠ 0#14) := by
  rw [mem_opcsOf, mem_opcsOf, Ne, Ne, ← selectorLegal_iff]
  constructor
  · rintro ⟨r, hr, hopc, h⟩
    cases hf : r.format with
    | z => exact .inl ⟨⟨r, hr, hf, hopc⟩, by rwa [hf] at h⟩
    | i => exact absurd (by rw [hf]; trivial) h
    | s => exact .inr ⟨⟨r, hr, hf, hopc⟩, by rwa [hf] at h⟩
  · rintro (⟨⟨r, hr, hf, hopc⟩, h⟩ | ⟨⟨r, hr, hf, hopc⟩, h⟩)
    · exact ⟨r, hr, hopc, by rwa [hf]⟩
    · exact ⟨r, hr, hopc, by rwa [hf]⟩

namespace Machine

/-- The completion of an illegal word is ILLEGAL_CMD, with no other effect (R128, R331). -/
theorem complete_of_illegal {s : State} {w : Word} {e : Reject} (hpend : s.pend = some w) (hw : decode w = .error e) :
    complete s = .next (failedWith 3#4 s) := by
  simp only [complete, hpend, hw]
  rfl

/-- Settles O3: the lists of OPCs are those of all rows, of the rows of format Z, and of the one row of format S. -/
theorem illegalWordsCompleteWithIllegalCmd : Obligations.IllegalWordsCompleteWithIllegalCmd := by
  refine ⟨fun w => ?_, fun s w e hturn hpend hw => ?_⟩
  · have himm : (immField w).extractLsb' 2 14 = w.extractLsb' 2 14 := by
      rw [immField, BitVec.extractLsb'_extractLsb'_of_le (by decide)]
    rw [decode_error_iff, exists_row_forbids_iff, himm, show opcsOf .s = [0x03#8] from rfl, List.mem_singleton]
    rfl
  · rw [step, hturn]
    exact complete_of_illegal (s := spendTurn s) hpend hw

/-! ## The worked encodings (R133) -/

/-- Settles O4: each text assembles by evaluation, and its word is the encoding of its command. -/
theorem workedEncodings : Obligations.WorkedEncodings := by
  refine ⟨⟨rfl, decode_encode (i := .nop) rfl⟩, ⟨rfl, decode_encode (i := .keyLoad) rfl⟩,
    ⟨rfl, decode_encode (i := .sboxLoad) rfl⟩, ⟨rfl, decode_encode (i := .sboxRd 3#16) rfl⟩,
    ⟨rfl, decode_encode (i := .rotl16 0xFFFF#16) rfl⟩, ⟨rfl, decode_encode (i := .rotl16 4#16) rfl⟩,
    ⟨rfl, decode_encode (i := .lfsrStep) rfl⟩, ⟨rfl, decode_encode (i := .subst) rfl⟩,
    ⟨rfl, decode_encode (i := .iperm) rfl⟩, ⟨rfl, decode_encode (i := .roundf 0xABCD#16) rfl⟩,
    ⟨rfl, decode_encode (i := .encRound 0x1357#16) rfl⟩, ⟨rfl, decode_encode (i := .decBlk) rfl⟩,
    ⟨rfl, decode_encode (i := .encMsg) rfl⟩, ⟨rfl, decode_encode (i := .decMsg) rfl⟩, ?_⟩
  rintro s w (rfl | rfl) hpend
  · exact complete_of_illegal hpend (show decode 0x60000001#32 = .error .immediateNotZero by decide)
  · exact complete_of_illegal hpend (show decode 0x60010000#32 = .error .reservedNotZero by decide)

/-! ## The host's turns (R15, R130) -/

/-- The step of a host event is the host's next statement. -/
theorem step_of_hostTurn {s : State} {rest : List Turn} (h : s.sched = .host :: rest) :
    step s = .next (hostStep busAccess { s with sched := rest }) := by
  have hspent : spendTurn s = { s with sched := rest } := by rw [spendTurn, h]; rfl
  rw [step, nextTurn, h, hspent]
  rfl

section
variable {bus : Access → State → Response × State} {s : State}

theorem hostStep_access {a : Access} (h : s.host.script[s.host.pos]? = some (.access a)) :
    hostStep bus s = { (bus a s).2 with host := recordAccess a (bus a s).1 s.host } := by
  simp only [hostStep, h]

theorem hostStep_jbs {n : Nat} {b : Fin 32} (h : s.host.script[s.host.pos]? = some (.jbs n b)) :
    hostStep bus s = { s with host := jumpTo (s.host.t.getLsbD b) n s.host } := by
  simp only [hostStep, h]

theorem hostStep_jbc {n : Nat} {b : Fin 32} (h : s.host.script[s.host.pos]? = some (.jbc n b)) :
    hostStep bus s = { s with host := jumpTo (!s.host.t.getLsbD b) n s.host } := by
  simp only [hostStep, h]

theorem hostStep_halt (h : s.host.script[s.host.pos]? = some .halt) : hostStep bus s = s := by
  simp only [hostStep, h]

end

theorem recordAccess_t_of_write {a : Access} (r : Response) (h : HostAgent) (hw : a.write ≠ none) :
    (recordAccess a r h).t = h.t :=
  if_neg (by simpa using hw)

theorem recordAccess_t_of_read {a : Access} (r : Response) (h : HostAgent) (hw : a.write = none) :
    (recordAccess a r h).t = r.data :=
  if_pos (by simp [hw])

/-- A jump if a bit is 0 goes on if it is 1 (R130). -/
theorem jumpTo_not (taken : Bool) (n : Nat) (h : HostAgent) :
    jumpTo (!taken) n h = { h with pos := if taken = true then h.pos + 1 else n } := by
  cases taken <;> rfl

/-- Settles O6, statement by statement. -/
theorem hostTurnsRunTheScript : Obligations.HostTurnsRunTheScript := by
  intro s rest hsched
  rw [step_of_hostTurn hsched]
  refine ⟨fun t a r hop haccess => ?_, fun n b hop => ?_, fun n b hop => ?_, fun hop => ?_⟩
  · refine ⟨recordAccess a r s.host, ?_, rfl, rfl, rfl, recordAccess_t_of_write r s.host,
      fun hread v hv => ?_, fun hread hv => ?_⟩
    · rw [hostStep_access (s := { s with sched := rest }) hop, haccess]
    · rw [recordAccess_t_of_read r s.host hread, hv]; rfl
    · rw [recordAccess_t_of_read r s.host hread, hv]; rfl
  · rw [hostStep_jbs (s := { s with sched := rest }) hop]; rfl
  · rw [hostStep_jbc (s := { s with sched := rest }) hop, jumpTo_not]
  · rw [hostStep_halt (s := { s with sched := rest }) hop]

/-- The host after RD STATUS: `t` is the STATUS word, and the script goes on (R131, R36). -/
def afterStatusRead (s : State) : HostAgent := recordAccess ⟨32, 0x0004#16, none⟩ (.ok (statusWord s)) s.host

theorem hostStep_readStatus {s : State} (h : s.host.script[s.host.pos]? = some readStatusOp) :
    hostStep busAccess s = { s with host := afterStatusRead s } := by
  have hread : busAccess ⟨32, 0x0004#16, none⟩ s = (.ok (statusWord s), s) :=
    busAccess_registerRead (t := .status) rfl rfl rfl (.inr rfl)
  rw [hostStep_access h, hread]
  rfl

/-- Settles O7: the jump of WAIT is taken on bit 0 of STATUS, which is BUSY. -/
theorem waitLoopsExactlyWhileBusy : Obligations.WaitLoopsExactlyWhileBusy := by
  intro s rest hsched hread hjump
  obtain ⟨hbusy, -⟩ := statusShowsItsFields s
  have hfirst : step s = .next { s with sched := .host :: rest, host := afterStatusRead s } := by
    rw [step_of_hostTurn hsched, hostStep_readStatus (s := { s with sched := .host :: rest }) hread]
    rfl
  have hsecond : step { s with sched := .host :: rest, host := afterStatusRead s } =
      .next { s with sched := rest, host := jumpTo ((statusWord s).getLsbD 0) s.host.pos (afterStatusRead s) } := by
    rw [step_of_hostTurn rfl, hostStep_jbs (s := { s with sched := rest, host := afterStatusRead s }) hjump]
    rfl
  refine ⟨_, (core_run_next _ _ 1 hfirst).trans (core_run_next _ _ 0 hsecond), rfl, hbusy, ?_⟩
  rw [hbusy]
  cases s.pend <;> rfl

end Machine
end Sys2Proof
end

section
/-! Proofs of the statements of 40_command_model.md, from one lemma for each event of a command's life:
`busAccess_cmdWrite` with `writeCmd_idle` and `writeCmd_busy` for the CMD write (R150, R152), `step_of_engineTurn` for the
engine's move and `complete_of_decoded` for the completion (R151). -/

namespace Sys2Proof.Machine

/-! ## The engine's move (R15, R151) -/

/-- With a word pending, the engine moves when its event is next or when no event is left (R15, R372). -/
theorem nextTurn_of_engineTurn {s : State} (hpend : s.pend ≠ none)
    (hsched : s.sched = [] ∨ ∃ rest, s.sched = .engine :: rest) : nextTurn s = .engine := by
  obtain hempty | ⟨rest, hengine⟩ := hsched
  · simp [nextTurn, hempty, busy_of_pending hpend]
  · simp [nextTurn, hengine]

theorem step_of_engineTurn {s : State} (h : nextTurn s = .engine) : step s = complete (spendTurn s) := by
  rw [step, h]
  rfl

/-- The completion of a word that decodes is the meaning of its command (R151). -/
theorem complete_of_decoded {s : State} {w : Word} {i : Instr} (hpend : s.pend = some w) (hw : decode w = .ok i) :
    complete s = exec i s := by
  simp only [complete, hpend, hw]

/-- Settles O5: the engine moves, and taking its event off the schedule leaves the pending word. -/
theorem stepRunsTheDecodedCommand : Obligations.StepRunsTheDecodedCommand := by
  intro s w i hpend hw hsched
  have hturn : nextTurn s = .engine := nextTurn_of_engineTurn (by simp [hpend]) hsched
  exact (step_of_engineTurn hturn).trans (complete_of_decoded (s := spendTurn s) hpend hw)

/-! ## The CMD write (R150, R152) -/

/-- A write to CMD, the address 0x0000, is `writeCmd`, and answered OK. -/
theorem busAccess_cmdWrite (s : State) (w : Word) :
    busAccess ⟨32, 0x0000#16, some w⟩ s = (.ok 0#32, writeCmd w s) :=
  busAccess_write (t := .cmd) w rfl rfl

theorem writeCmd_idle {s : State} (w : Word) (h : s.pend = none) : writeCmd w s = issue w s := by
  rw [writeCmd, (not_busy_iff s).2 h, if_neg Bool.false_ne_true]

theorem writeCmd_busy {s : State} (w : Word) (h : s.pend ≠ none) : writeCmd w s = { s with cmdOvr := true } :=
  if_pos (busy_of_pending h)

/-- Settles O8: after the issue a word is pending, which bit 0 of STATUS shows. -/
theorem commandWriteIssuesOrIsDropped : Obligations.CommandWriteIssuesOrIsDropped := by
  refine fun s w => ⟨fun hidle => ⟨0#32, ?_, ?_⟩, fun hbusy => ⟨0#32, ?_⟩⟩
  · rw [busAccess_cmdWrite, writeCmd_idle w hidle, issue]
  · obtain ⟨hbit, -⟩ := statusShowsItsFields (issue w s)
    exact hbit
  · rw [busAccess_cmdWrite, writeCmd_busy w hbusy]

/-! ## NOP (R155) -/

theorem decode_nop : decode 0x00000000#32 = .ok .nop := decode_encode (i := .nop) rfl

/-- NOP is a completion with no other effect (R155). -/
theorem exec_nop_finish (s : State) : exec .nop s = .next (finish s) := by
  rw [exec_nop, command_nil, id]

/-- Settles O9: the issue clears the error report, and NOP's completion only ends the command. -/
theorem nopClearsAnErrorReport : Obligations.NopClearsAnErrorReport := by
  refine ⟨decode_nop, exec_nop_finish, fun s t d hidle haccess => ?_⟩
  have hissued : issue 0#32 s = t := by
    rw [busAccess_cmdWrite, writeCmd_idle _ hidle] at haccess
    exact (Prod.mk.inj haccess).2
  rw [← hissued, complete_of_decoded (issue_pend _ s) decode_nop, exec_nop_finish, finish, issue, hidle]

end Sys2Proof.Machine
end

section
/-! Proofs of the statements of 41_bitops.md. `getLsbD_rotl16` says once which bit of its argument each bit of a rotation
is (R170); the laws of R172 are read off it. -/

namespace Sys2Proof

/-! ## A command word as a number (R121) -/

theorem encode_eq_ofNat (i : Instr) :
    encode i = BitVec.ofNat 32 ((opcOf i).toNat * 0x1000000 + (immOf i).toNat) := by
  apply BitVec.eq_of_toNat_eq
  have himm : (immOf i).toNat < 2 ^ 16 := (immOf i).isLt
  have hopc : (opcOf i).toNat < 2 ^ 8 := (opcOf i).isLt
  rw [encode, assembleWord, BitVec.toNat_append, BitVec.toNat_append, BitVec.toNat_ofNat, BitVec.toNat_ofNat,
    ← Nat.shiftLeft_add_eq_or_of_lt himm, Nat.zero_mod, Nat.or_zero, Nat.shiftLeft_eq, Nat.shiftLeft_eq]
  omega

/-- The word of a well-formed command, as the word of its OPC plus its immediate, decodes to it (R121, R127). -/
theorem decode_ofNat {i : Instr} (base : Nat) (hbase : base = (opcOf i).toNat * 0x1000000) (h : i.wellFormed = true) :
    decode (BitVec.ofNat 32 (base + (immOf i).toNat)) = .ok i := by
  rw [hbase, ← encode_eq_ofNat, decode_encode h]

namespace Machine

/-! ## The rotate, bit by bit (R170) -/

/-- The two shifts of R170 are the library's rotation of a bit vector. -/
theorem rotl16_eq_rotateLeft (x : Half) (n : Int) : rotl16 x n = x.rotateLeft (n % 16).toNat := by
  have hlt : (n % 16).toNat < 16 := by omega
  rw [BitVec.rotateLeft_def, Nat.mod_eq_of_lt hlt]
  unfold rotl16
  by_cases h : (n % 16).toNat = 0
  · rw [if_pos h, h, Nat.sub_zero, BitVec.shiftLeft_zero, BitVec.ushiftRight_eq_zero (Nat.le_refl 16), BitVec.or_zero]
  · rw [if_neg h]

theorem getLsbD_rotl16 (x : Half) (n : Int) {j : Nat} (hj : j < 16) :
    (rotl16 x n).getLsbD j = x.getLsbD (((j : Int) - n) % 16).toNat := by
  have hlt : (n % 16).toNat < 16 := by omega
  rw [rotl16_eq_rotateLeft, BitVec.getLsbD_rotateLeft, Nat.mod_eq_of_lt hlt]
  by_cases hwrap : j < (n % 16).toNat
  · rw [decide_eq_true hwrap, cond_true, show 16 - (n % 16).toNat + j = (((j : Int) - n) % 16).toNat by omega]
  · rw [decide_eq_false hwrap, cond_false, decide_eq_true hj, Bool.true_and,
      show j - (n % 16).toNat = (((j : Int) - n) % 16).toNat by omega]

/-- Settles O30: ROTL16 has no check, and its body writes DOUT alone. -/
theorem rotlRotatesTheLowHalf : Obligations.RotlRotatesTheLowHalf := by
  refine ⟨fun imm => decode_ofNat (i := .rotl16 imm) 0x10000000 (by simp [opcOf]) rfl, fun imm s => ?_⟩
  refine ⟨rotl16 (lowHalf s.din0) (rotateAmount imm), ?_, fun j hj => ?_⟩
  · rw [exec_rotl16, command_nil]
    rfl
  · have hsource : (((j : Int) - imm.toInt) % 16).toNat < 16 := by omega
    rw [getLsbD_rotl16 _ _ hj, rotateAmount, getLsbD_lowHalf, decide_eq_true hsource, Bool.true_and]

/-! ## The laws of the rotate (R172) -/

theorem rotl16_rotl16 (x : Half) (n m : Int) : rotl16 (rotl16 x n) m = rotl16 x (n + m) := by
  apply BitVec.eq_of_getLsbD_eq
  intro j hj
  have hmid : (((j : Int) - m) % 16).toNat < 16 := by omega
  rw [getLsbD_rotl16 _ _ hj, getLsbD_rotl16 _ _ hmid, getLsbD_rotl16 _ _ hj]
  congr 1
  omega

theorem rotl16_zero (x : Half) : rotl16 x 0 = x := rfl

/-- Only `n mod 16` affects the rotation (R171). -/
theorem rotl16_eq_of_emod_eq (x : Half) {n m : Int} (h : n % 16 = m % 16) : rotl16 x n = rotl16 x m := by
  rw [rotl16, rotl16, h]

theorem onesIn_eq_sum (x : Half) : onesIn x = ∑ j : Fin 16, (x.getLsbD j).toNat := by
  rw [onesIn, Fin.sum_univ_def, ← List.map_coe_finRange_eq_range, List.map_map]
  rfl

/-- A half whose bits are those of another at pairwise different places has as many 1 bits. -/
theorem onesIn_eq_of_reindexed {x y : Half} {σ : Fin 16 → Fin 16} (hσ : σ.Injective)
    (h : ∀ j : Fin 16, y.getLsbD j = x.getLsbD (σ j)) : onesIn y = onesIn x := by
  simp only [onesIn_eq_sum, h]
  exact (Finite.injective_iff_bijective.1 hσ).sum_comp fun j => (x.getLsbD j).toNat

/-- The bit a rotation by `n` moves to bit `j` (R170). -/
def rotateSource (n : Int) (j : Fin 16) : Fin 16 := ⟨(((j : Int) - n) % 16).toNat, by omega⟩

theorem rotateSource_injective (n : Int) : (rotateSource n).Injective := by
  intro j k h
  have hval : (((j : Int) - n) % 16).toNat = (((k : Int) - n) % 16).toNat := congrArg Fin.val h
  omega

theorem onesIn_rotl16 (x : Half) (n : Int) : onesIn (rotl16 x n) = onesIn x :=
  onesIn_eq_of_reindexed (rotateSource_injective n) fun j => getLsbD_rotl16 x n j.isLt

/-- Settles O31: rotations compose by adding their amounts, which count modulo 16. -/
theorem rotateLaws : Obligations.RotateLaws := by
  intro x n m
  refine ⟨rotl16_rotl16 x n m, ?_, rotl16_eq_of_emod_eq x (by omega), onesIn_rotl16 x n⟩
  rw [rotl16_rotl16, Int.add_right_neg, rotl16_zero]

end Machine
end Sys2Proof
end

section
/-! Proofs of the statements of 42_lfsr_keystream_gen.md. `getLsbD_lfsrStep` says once which bit of the state each bit of
the next state is (R180); the inverse of R185 and the seed bits of R186 are read off it. -/

namespace Sys2Proof.Machine

/-! ## The step, bit by bit (R180) -/

theorem lfsrStep_fst (s : Word) : (lfsrStep s).1 = (s >>> 1) ||| flagBit (feedback s) 31 := rfl

theorem getLsbD_lfsrStep (s : Word) {i : Nat} (hi : i < 32) :
    (lfsrStep s).1.getLsbD i = if i = 31 then feedback s else s.getLsbD (i + 1) := by
  rw [lfsrStep_fst, BitVec.getLsbD_or, BitVec.getLsbD_ushiftRight, getLsbD_flagBit _ _ _ hi, Nat.add_comm 1 i]
  split
  · next htop => rw [htop, BitVec.getLsbD_of_ge s 32 (Nat.le_refl 32), decide_eq_true rfl, Bool.true_and, Bool.false_or]
  · next hlow => rw [decide_eq_false hlow, Bool.false_and, Bool.or_false]

theorem getLsbD_lfsrStep_of_lt (s : Word) {i : Nat} (hi : i < 31) :
    (lfsrStep s).1.getLsbD i = s.getLsbD (i + 1) := by
  rw [getLsbD_lfsrStep s (by omega), if_neg (by omega)]

theorem getLsbD_lfsrStep_top (s : Word) : (lfsrStep s).1.getLsbD 31 = feedback s :=
  getLsbD_lfsrStep s (by decide)

/-- LFSR_STEP has no check: it completes with the next state in LFSR and DOUT (R184). -/
theorem exec_lfsrStep_finish (s : State) :
    exec .lfsrStep s = .next (finish { s with lfsr := (lfsrStep s.lfsr).1, dout := (lfsrStep s.lfsr).1 }) := by
  rw [exec_lfsrStep, command_nil]
  rfl

/-- Settles O32: the witness is the next state, whose bits are those of `getLsbD_lfsrStep`. -/
theorem lfsrStepShiftsInTheTaps : Obligations.LfsrStepShiftsInTheTaps := by
  refine ⟨decode_encode (i := .lfsrStep) rfl, fun s => ⟨(lfsrStep s.lfsr).1, exec_lfsrStep_finish s, ?_, ?_⟩⟩
  · exact fun i hi => getLsbD_lfsrStep_of_lt s.lfsr hi
  · exact getLsbD_lfsrStep_top s.lfsr

/-! ## The inverse step (R185) -/

/-- The state before `ns`, as R185 gives it: the step shifted bits 31:1 to 30:0, and the taps that are still to be seen
cancel out of the feedback bit. -/
def lfsrUnstep (ns : Word) : Word :=
  ns.extractLsb' 0 31 ++ BitVec.ofBool (ns.getLsbD 31 ^^ ns.getLsbD 0 ^^ ns.getLsbD 20 ^^ ns.getLsbD 30)

theorem getLsbD_lfsrUnstep_zero (ns : Word) :
    (lfsrUnstep ns).getLsbD 0 = (ns.getLsbD 31 ^^ ns.getLsbD 0 ^^ ns.getLsbD 20 ^^ ns.getLsbD 30) := by
  rw [lfsrUnstep, BitVec.getLsbD_append, if_pos Nat.zero_lt_one, BitVec.getLsbD_ofBool, decide_eq_true rfl,
    Bool.true_and]

theorem getLsbD_lfsrUnstep_succ (ns : Word) {i : Nat} (hi : i < 31) :
    (lfsrUnstep ns).getLsbD (i + 1) = ns.getLsbD i := by
  rw [lfsrUnstep, BitVec.getLsbD_append, if_neg (by omega), BitVec.getLsbD_extractLsb', Nat.zero_add,
    Nat.add_sub_cancel, decide_eq_true hi, Bool.true_and]

/-- The tap at bit 0 is the feedback bit with the other three taps cancelled. -/
theorem getLsbD_zero_eq_feedback_xor (s : Word) :
    s.getLsbD 0 = (feedback s ^^ s.getLsbD 1 ^^ s.getLsbD 21 ^^ s.getLsbD 31) := by
  simp [feedback, Bool.xor_left_comm]

theorem lfsrUnstep_lfsrStep (s : Word) : lfsrUnstep (lfsrStep s).1 = s := by
  apply BitVec.eq_of_getLsbD_eq
  rintro (_ | i) hi
  · rw [getLsbD_lfsrUnstep_zero, getLsbD_lfsrStep_top, getLsbD_lfsrStep_of_lt s (by decide),
      getLsbD_lfsrStep_of_lt s (by decide), getLsbD_lfsrStep_of_lt s (by decide), ← getLsbD_zero_eq_feedback_xor]
  · rw [getLsbD_lfsrUnstep_succ _ (by omega), getLsbD_lfsrStep_of_lt s (by omega)]

theorem lfsrStep_injective : Function.Injective fun s => (lfsrStep s).1 :=
  Function.LeftInverse.injective lfsrUnstep_lfsrStep

/-- Settles O33: the inverse undoes every step, and an injection of the finitely many states is a bijection. -/
theorem lfsrStepIsInvertible : Obligations.LfsrStepIsInvertible := by
  refine ⟨?_, Finite.injective_iff_bijective.1 lfsrStep_injective, rfl⟩
  rintro s ns rfl
  exact (lfsrUnstep_lfsrStep s).symm

/-! ## The schedule (R181, R182, R186) -/

theorem lfsrAfter_succ (n : Nat) (s : Word) : lfsrAfter (n + 1) s = lfsrAfter n (lfsrStep s).1 := rfl

theorem lfsrAfter_succ' (n : Nat) (s : Word) : lfsrAfter (n + 1) s = (lfsrStep (lfsrAfter n s)).1 :=
  Function.iterate_succ_apply' _ n s

theorem subkeys_succ (s : Word) (r : Nat) :
    subkeys s (r + 1) = (lowHalf (lfsrStep s).1 :: (subkeys (lfsrStep s).1 r).1, (subkeys (lfsrStep s).1 r).2) := rfl

/-- The final state of a schedule depends on the seed and the round count alone (R182). -/
theorem subkeys_snd (s : Word) (r : Nat) : (subkeys s r).2 = lfsrAfter r s := by
  induction r generalizing s with
  | zero => rfl
  | succ r ih => rw [subkeys_succ, ih, lfsrAfter_succ]

/-- Subkey `t` is the low half of the state `t + 1` steps on (R181). -/
theorem subkeys_fst_getElem? (s : Word) {r t : Nat} (ht : t < r) :
    (subkeys s r).1[t]? = some (lowHalf (lfsrAfter (t + 1) s)) := by
  induction r generalizing s t with
  | zero => exact absurd ht (Nat.not_lt_zero t)
  | succ r ih =>
    rw [subkeys_succ]
    cases t with
    | zero => rfl
    | succ t => rw [List.getElem?_cons_succ, ih _ (Nat.lt_of_succ_lt_succ ht), ← lfsrAfter_succ]

/-- A seed bit moves down one place a step, as long as it is in the register (R186). -/
theorem getLsbD_lfsrAfter (s : Word) {n i : Nat} (h : i + n < 32) :
    (lfsrAfter n s).getLsbD i = s.getLsbD (i + n) := by
  induction n generalizing i with
  | zero => rfl
  | succ n ih =>
    rw [lfsrAfter_succ', getLsbD_lfsrStep_of_lt _ (by omega), ih (by omega), Nat.add_right_comm, Nat.add_assoc]

/-- No feedback bit reaches the low half within 16 steps (R186). -/
theorem lowHalf_lfsrAfter (s : Word) {n : Nat} (hn : n ≤ 16) : lowHalf (lfsrAfter n s) = s.extractLsb' n 16 := by
  apply BitVec.eq_of_getLsbD_eq
  intro i hi
  rw [getLsbD_lowHalf, BitVec.getLsbD_extractLsb', getLsbD_lfsrAfter s (by omega), Nat.add_comm i n]

/-- Settles O34: subkey t is taken t + 1 ≤ 16 steps on, before a feedback bit reaches it. -/
theorem earlySubkeysAreSeedBits : Obligations.EarlySubkeysAreSeedBits := by
  refine fun s r => ⟨subkeys_snd s r, fun t ht htr => ?_⟩
  rw [subkeys_fst_getElem? s htr, lowHalf_lfsrAfter s ht]

end Sys2Proof.Machine
end

section
/-! Proofs of the statements of 43_sbox_permutation_rom.md. Two lemmas carry them: `look_inverseTable_look` says that the
inverse table undoes a permutation (R201), and `nibbleOfWord_packHalf` which entry each nibble of a packed word is (R203). -/

namespace Sys2Proof.Machine

/-! ## The entries of a table (R201) -/

theorem getElem?_toList_toNat (t : Table) (n : Nibble) : t.toList[n.toNat]? = some (look t n) := by
  rw [Vector.getElem?_toList, Vector.getElem?_eq_getElem n.isLt, look]

theorem isPerm_iff (t : Table) : isPerm t = true ↔ ∀ i j : Fin 16, t[i] = t[j] → i = j := by
  have hentries : t.toList = List.ofFn fun i : Fin 16 => t[i] := by
    rw [← Vector.toList_ofFn]
    exact congrArg Vector.toList Vector.ofFn_getElem.symm
  rw [isPerm, decide_eq_true_iff, hentries, List.nodup_ofFn]
  rfl

/-- `indexOf` is the library's index of an element. -/
theorem indexOf_eq_idxOf (v : Nibble) (l : List Nibble) : indexOf v l = l.idxOf v := by
  induction l with
  | nil => rfl
  | cons e rest ih =>
    rw [indexOf, List.idxOf_cons, ih]
    by_cases h : e = v
    · rw [if_pos h, beq_iff_eq.2 h, cond_true]
    · rw [if_neg h, beq_false_of_ne h, cond_false]

theorem look_inverseTable (t : Table) (v : Nibble) :
    look (inverseTable t) v = BitVec.ofNat 4 (t.toList.idxOf v) := by
  rw [look, inverseTable, Vector.getElem_ofFn, indexOf_eq_idxOf]
  rfl

/-- `I[T[i]] = i` for the inverse table I of a permutation T (R201). -/
theorem look_inverseTable_look {t : Table} (ht : isPerm t = true) (n : Nibble) :
    look (inverseTable t) (look t n) = n := by
  have hnodup : t.toList.Nodup := of_decide_eq_true ht
  have hindex : t.toList.idxOf (look t n) = n.toNat := hnodup.idxOf_getElem n.toNat (by simp [n.isLt])
  rw [look_inverseTable, hindex, BitVec.ofNat_toNat, BitVec.setWidth_eq]

/-- On the 16 nibbles a left inverse is a right inverse too. -/
theorem look_look_inverseTable {t : Table} (ht : isPerm t = true) (n : Nibble) :
    look t (look (inverseTable t) n) = n := by
  have hleft : Function.LeftInverse (look (inverseTable t)) (look t) := look_inverseTable_look ht
  exact hleft.rightInverse_of_surjective (Finite.surjective_of_injective hleft.injective) n

theorem undoes_inverseTable {t : Table} (ht : isPerm t = true) : Undoes t (inverseTable t) := by
  intro i
  rw [getElem?_toList_toNat]
  exact congrArg some (look_inverseTable_look ht (BitVec.ofFin i))

/-! ## KEY_LOAD (R210) -/

theorem getElem_sboxGen (seed : Word) (i : Fin 16) : (sboxGen seed)[i] = BitVec.ofFin (Config.sboxGen seed i) := by
  rw [Fin.getElem_fin, sboxGen, Vector.getElem_ofFn]

/-- Settles O35: KEY_LOAD has no check, and its table is a permutation by the contract of SBOX_GEN (R202). -/
theorem keyLoadOpensTheSession : Obligations.KeyLoadOpensTheSession := by
  refine ⟨decode_encode (i := .keyLoad) rfl, fun s => ?_⟩
  have hperm : isPerm (sboxGen s.din0) = true := isPerm_sboxGen s.din0
  exact ⟨sboxGen s.din0, inverseTable (sboxGen s.din0), (exec_keyLoad s).trans (command_nil s keyLoadBody),
    getElem_sboxGen s.din0, (isPerm_iff _).1 hperm, undoes_inverseTable hperm⟩

/-! ## SBOX_LOAD (R211) -/

theorem getElem_hostTable (s : State) (i : Fin 16) : (hostTable s)[i] = hostEntry s i := by
  rw [Fin.getElem_fin, hostTable, unpackTable, Vector.getElem_ofFn]
  rfl

theorem isPerm_hostTable_iff (s : State) : isPerm (hostTable s) = true ↔ HostEntriesDistinct s := by
  simp only [isPerm_iff, getElem_hostTable]

/-- A command with one check that fails raises its error. -/
theorem command_of_failing {s : State} {passes : Bool} (e : ErrKind) (body : State → State) (h : ¬passes = true) :
    command s [(passes, e)] body = .next (raise e s) := by
  rw [command, firstFailing, if_neg h]

/-- Settles O36: the one check of SBOX_LOAD passes exactly on pairwise distinct entries. -/
theorem sboxLoadTakesOnlyPermutations : Obligations.SboxLoadTakesOnlyPermutations := by
  refine ⟨decode_encode (i := .sboxLoad) rfl, fun s hdistinct => ?_, fun s hrepeated => ?_⟩
  · have hperm : isPerm (hostTable s) = true := (isPerm_hostTable_iff s).2 hdistinct
    refine ⟨hostTable s, inverseTable (hostTable s), ?_, getElem_hostTable s, undoes_inverseTable hperm⟩
    rw [exec_sboxLoad, command_ok _ _ _ (by simpa using hperm)]
    rfl
  · rw [exec_sboxLoad, command_of_failing _ _ (mt (isPerm_hostTable_iff s).1 hrepeated)]
    rfl

/-! ## Packed half-tables (R203) -/

/-- `k + 1` nibbles put together, entry 0 in bits 3:0. -/
def joinNibbles : (k : Nat) → (Fin (k + 1) → Nibble) → BitVec (4 * k + 4)
  | 0, f => f 0
  | k + 1, f => joinNibbles k (fun j => f j.succ) ++ f 0

theorem extractLsb'_joinNibbles {k : Nat} (f : Fin (k + 1) → Nibble) (j : Fin (k + 1)) :
    (joinNibbles k f).extractLsb' (4 * j) 4 = f j := by
  induction k with
  | zero =>
    obtain rfl : j = 0 := Fin.fin_one_eq_zero j
    exact BitVec.extractLsb'_eq_self
  | succ k ih =>
    cases j using Fin.cases with
    | zero => exact (BitVec.extractLsb'_append_eq_of_add_le (Nat.le_refl 4)).trans BitVec.extractLsb'_eq_self
    | succ j => exact (BitVec.extractLsb'_append_eq_of_le (Nat.le_add_left 4 _)).trans (ih (fun j => f j.succ) j)

theorem packHalf_false (t : Table) : packHalf t false = joinNibbles 7 fun j => t[j.val] := rfl
theorem packHalf_true (t : Table) : packHalf t true = joinNibbles 7 fun j => t[8 + j.val] := rfl

/-- Nibble `j` of a packed half-table is entry `8*half + j` (R203). -/
theorem nibbleOfWord_packHalf (t : Table) (half : Bool) (j : Fin 8) (h : 8 * half.toNat + j.val < 16) :
    nibbleOfWord (packHalf t half) j = t[8 * half.toNat + j.val] := by
  cases half with
  | false =>
    simp only [Bool.toNat_false, Nat.mul_zero, Nat.zero_add, packHalf_false]
    exact extractLsb'_joinNibbles (fun j : Fin 8 => t[j.val]) j
  | true =>
    rw [packHalf_true]
    exact extractLsb'_joinNibbles (fun j : Fin 8 => t[8 + j.val]) j

/-- The two packed halves of a table are that table (R203). -/
theorem unpackTable_packHalf (t : Table) : unpackTable (packHalf t false) (packHalf t true) = t := by
  ext1 i hi
  rw [unpackTable, Vector.getElem_ofFn]
  by_cases hlow : i < 8
  · simpa [hlow] using nibbleOfWord_packHalf t false ⟨i, hlow⟩ (by simpa using hi)
  · have hindex : 8 + (i - 8) = i := by omega
    simpa [hlow, hindex] using nibbleOfWord_packHalf t true ⟨i - 8, by omega⟩ (by simpa [hindex] using hi)

/-! ## SBOX_RD (R212) -/

theorem selectorLegal_of_lt {imm : Half} (h : imm.toNat < 4) : selectorLegal imm = true := by
  rw [selectorLegal_iff]
  apply BitVec.eq_of_toNat_eq
  rw [BitVec.extractLsb'_toNat, Nat.shiftRight_eq_div_pow, Nat.div_eq_of_lt h]
  rfl

/-- In a session a command that checks only for the tables, and whose one result is DOUT, writes it and completes. -/
theorem command_needSbox_setDout {s : State} (v : State → Word) (h : s.sboxValid = true) :
    command s [needSbox s] (fun s => setDout (v s) s) = .next { s with pend := none, done := true, dout := v s } :=
  command_ok s _ _ (by simpa using h)

/-- Settles O37: DOUT is the packed half, whose nibbles are the entries of the table in order. -/
theorem sboxReadPacksAHalfTable : Obligations.SboxReadPacksAHalfTable := by
  refine ⟨fun imm himm => ?_, fun imm s hvalid => ⟨packHalf (tableNamed imm s) (selHalf imm), ?_, fun j hj => ?_⟩,
    fun imm s => exec_noSbox (i := .sboxRd imm) rfl, unpackTable_packHalf⟩
  · exact decode_ofNat (i := .sboxRd imm) 0x03000000 (by simp [opcOf]) (selectorLegal_of_lt himm)
  · exact (exec_sboxRd imm s).trans (command_needSbox_setDout _ hvalid)
  · have hindex : 8 * (imm.getLsbD 0).toNat + j < 16 := by have := (imm.getLsbD 0).toNat_le; omega
    rw [Vector.getElem?_toList, Vector.getElem?_eq_getElem hindex]
    exact congrArg some (nibbleOfWord_packHalf (tableNamed imm s) (selHalf imm) ⟨j, hj⟩ hindex).symm

/-! ## SUBST and ISUBST (R213, R214) -/

theorem nibbleOfHalf_lowHalf (b : Word) {j : Nat} (hj : j < 4) :
    nibbleOfHalf (lowHalf b) j = b.extractLsb' (4 * j) 4 :=
  BitVec.extractLsb'_extractLsb'_of_le (by omega)

/-- A table maps nibble `j` of DIN0[15:0] to nibble `j` of the substituted half (R200). -/
theorem getElem?_toList_nibble (t : Table) (b : Word) (j : Nat) (hj : j < 4) :
    t.toList[(b.extractLsb' (4 * j) 4).toNat]? = some ((substitute (lowHalf b) t).extractLsb' (4 * j) 4) := by
  rw [getElem?_toList_toNat, ← nibbleOfHalf_lowHalf b hj, ← nibble_substitute _ t j hj, nibbleOfHalf]

/-- Settles O38: both commands substitute DIN0[15:0], each through its own table. -/
theorem substMapsEachNibble : Obligations.SubstMapsEachNibble := by
  refine ⟨decode_encode (i := .subst) rfl, decode_encode (i := .isubst) rfl, fun s hvalid => ?_, fun s hvalid => ?_,
    fun s hinvalid => ⟨exec_noSbox (i := .subst) rfl hinvalid, exec_noSbox (i := .isubst) rfl hinvalid⟩⟩
  · exact ⟨substitute (lowHalf s.din0) s.sbox, (exec_subst s).trans (command_needSbox_setDout _ hvalid),
      getElem?_toList_nibble s.sbox s.din0⟩
  · exact ⟨substitute (lowHalf s.din0) s.invSbox, (exec_isubst s).trans (command_needSbox_setDout _ hvalid),
      getElem?_toList_nibble s.invSbox s.din0⟩

/-! ## The laws of the substitutions (R215) -/

/-- Where a table undoes another entry by entry, substitution through it undoes substitution through the other. -/
theorem substitute_substitute {t u : Table} (h : ∀ n, look u (look t n) = n) (x : Half) :
    substitute (substitute x t) u = x := by
  apply half_eq_of_nibbles
  intro j hj
  rw [nibble_substitute _ u j hj, nibble_substitute x t j hj, h]

/-- Settles O39: in a session the tables are a permutation and its inverse table. -/
theorem substitutionsUndoEachOther : Obligations.SubstitutionsUndoEachOther := by
  rintro s x ⟨htables, -⟩ hvalid
  obtain ⟨hperm, hinv⟩ := htables hvalid
  rw [hinv]
  exact ⟨substitute_substitute (look_inverseTable_look hperm) x, substitute_substitute (look_look_inverseTable hperm) x⟩

end Sys2Proof.Machine
end

section
/-! Proofs of the statements of 44_pbox_bit_permute.md. `getLsbD_moveBits_dst` says once that a map to pairwise different
places moves each bit to its place; `getLsbD_permute` and `getLsbD_inversePermute` say where each bit of the two maps comes
from, and the laws of R232 are read off them as arithmetic mod 16. -/

namespace Sys2Proof.Machine

/-! ## Moving the bits of a half (R230, R231) -/

theorem getLsbD_bitAt (b : Bool) (d : Nat) {j : Nat} (hj : j < 16) :
    ((BitVec.ofBool b).setWidth 16 <<< d : Half).getLsbD j = (b && decide (d = j)) := by
  rw [BitVec.getLsbD_shiftLeft, BitVec.getLsbD_setWidth, BitVec.getLsbD_ofBool]
  obtain hlt | rfl | hgt := Nat.lt_trichotomy d j
  · simp [show j - d ≠ 0 by omega, hlt.ne]
  · simp [hj]
  · simp [hgt, hgt.ne']

/-- Bit `j` of the fold over any indices is set when it was before, or when a set bit among them moves there. -/
theorem getLsbD_foldl_moved (dst : Nat → Nat) (x : Half) (l : List Nat) (y : Half) {j : Nat} (hj : j < 16) :
    (l.foldl (fun y i => y ||| ((BitVec.ofBool (x.getLsbD i)).setWidth 16 <<< dst i)) y).getLsbD j =
      (y.getLsbD j || l.any fun i => x.getLsbD i && decide (dst i = j)) := by
  induction l generalizing y with
  | nil => rw [List.foldl_nil, List.any_nil, Bool.or_false]
  | cons i l ih => rw [List.foldl_cons, ih, BitVec.getLsbD_or, getLsbD_bitAt _ _ hj, List.any_cons, Bool.or_assoc]

theorem getLsbD_moveBits (dst : Nat → Nat) (x : Half) {j : Nat} (hj : j < 16) :
    (moveBits dst x).getLsbD j = (List.range 16).any fun i => x.getLsbD i && decide (dst i = j) := by
  rw [moveBits, getLsbD_foldl_moved dst x _ _ hj, BitVec.getLsbD_zero, Bool.false_or]

/-- Where no other bit moves to the place of bit `i`, that place holds bit `i`. -/
theorem getLsbD_moveBits_dst {dst : Nat → Nat} {i : Nat} (hi : i < 16) (hdst : dst i < 16)
    (halone : ∀ k < 16, dst k = dst i → k = i) (x : Half) : (moveBits dst x).getLsbD (dst i) = x.getLsbD i := by
  rw [getLsbD_moveBits dst x hdst, Bool.eq_iff_iff]
  simp only [List.any_eq_true, List.mem_range, Bool.and_eq_true, decide_eq_true_iff]
  constructor
  · rintro ⟨k, hk, hbit, hmoved⟩
    rwa [halone k hk hmoved] at hbit
  · exact fun hbit => ⟨i, hi, hbit, rfl⟩

theorem getLsbD_permute_dst (x : Half) {i : Nat} (hi : i < 16) :
    (permute x).getLsbD ((3 * i) % 16) = x.getLsbD i :=
  getLsbD_moveBits_dst (dst := fun i => (3 * i) % 16) hi (by omega) (by omega) x

/-- The table of R231 is multiplication by 11, the inverse of 3 modulo 16. -/
theorem invPositions_getD {i : Nat} (hi : i < 16) : invPositions.getD i 0 = (11 * i) % 16 := by
  revert i
  decide

theorem getLsbD_inversePermute_dst (x : Half) {i : Nat} (hi : i < 16) :
    (inversePermute x).getLsbD (invPositions.getD i 0) = x.getLsbD i := by
  refine getLsbD_moveBits_dst (dst := fun i => invPositions.getD i 0) hi ?_ (fun k hk hsame => ?_) x
  · rw [invPositions_getD hi]
    omega
  · rw [invPositions_getD hi, invPositions_getD hk] at hsame
    omega

/-! ## PERM and IPERM (R235, R236) -/

/-- A command that checks nothing, and whose one result is DOUT, writes it and completes. -/
theorem command_nil_setDout (s : State) (v : State → Word) :
    command s [] (fun s => setDout (v s) s) = .next { s with pend := none, done := true, dout := v s } :=
  command_nil s _

theorem getLsbD_lowHalf_of_lt (b : Word) {i : Nat} (hi : i < 16) : (lowHalf b).getLsbD i = b.getLsbD i := by
  rw [getLsbD_lowHalf, decide_eq_true hi, Bool.true_and]

/-- Settles O40: both commands move the bits of DIN0[15:0], each to the places of its own map. -/
theorem permMovesEachBit : Obligations.PermMovesEachBit := by
  refine ⟨decode_encode (i := .perm) rfl, decode_encode (i := .iperm) rfl, fun s => ?_, fun s => ?_⟩
  · exact ⟨permute (lowHalf s.din0), (exec_perm s).trans (command_nil_setDout s _),
      fun i hi => (getLsbD_permute_dst _ hi).trans (getLsbD_lowHalf_of_lt _ hi)⟩
  · exact ⟨inversePermute (lowHalf s.din0), (exec_iperm s).trans (command_nil_setDout s _),
      fun i hi => (getLsbD_inversePermute_dst _ hi).trans (getLsbD_lowHalf_of_lt _ hi)⟩

/-! ## The laws of the two maps (R232) -/

/-- Bit `j` comes from bit `11*j mod 16`, since `3*11 = 1` modulo 16 (R230). -/
theorem getLsbD_permute (x : Half) {j : Nat} (hj : j < 16) : (permute x).getLsbD j = x.getLsbD ((11 * j) % 16) := by
  have hplace : (3 * ((11 * j) % 16)) % 16 = j := by omega
  rw [← getLsbD_permute_dst x (i := (11 * j) % 16) (by omega), hplace]

/-- Bit `j` comes from bit `3*j mod 16` (R231). -/
theorem getLsbD_inversePermute (x : Half) {j : Nat} (hj : j < 16) :
    (inversePermute x).getLsbD j = x.getLsbD ((3 * j) % 16) := by
  have hsource : (3 * j) % 16 < 16 := by omega
  have hplace : invPositions.getD ((3 * j) % 16) 0 = j := by rw [invPositions_getD hsource]; omega
  rw [← getLsbD_inversePermute_dst x hsource, hplace]

theorem inversePermute_permute (x : Half) : inversePermute (permute x) = x := by
  apply BitVec.eq_of_getLsbD_eq
  intro j hj
  have hback : (11 * ((3 * j) % 16)) % 16 = j := by omega
  rw [getLsbD_inversePermute _ hj, getLsbD_permute _ (by omega), hback]

theorem permute_inversePermute (x : Half) : permute (inversePermute x) = x := by
  apply BitVec.eq_of_getLsbD_eq
  intro j hj
  have hback : (3 * ((11 * j) % 16)) % 16 = j := by omega
  rw [getLsbD_permute _ hj, getLsbD_inversePermute _ (by omega), hback]

/-- `permute` twice moves each bit to nine times its position. -/
theorem getLsbD_permute_permute_dst (x : Half) {i : Nat} (hi : i < 16) :
    (permute (permute x)).getLsbD ((9 * i) % 16) = x.getLsbD i := by
  have hplace : (3 * ((3 * i) % 16)) % 16 = (9 * i) % 16 := by omega
  rw [← hplace, getLsbD_permute_dst _ (by omega), getLsbD_permute_dst _ hi]

/-- Four times is twice twice, and `9*9 = 1` modulo 16. -/
theorem permute_order_four (x : Half) : permute (permute (permute (permute x))) = x := by
  apply BitVec.eq_of_getLsbD_eq
  intro j hj
  have hplace : (9 * ((9 * j) % 16)) % 16 = j := by omega
  calc (permute (permute (permute (permute x)))).getLsbD j
      = (permute (permute (permute (permute x)))).getLsbD ((9 * ((9 * j) % 16)) % 16) := by rw [hplace]
    _ = (permute (permute x)).getLsbD ((9 * j) % 16) := getLsbD_permute_permute_dst _ (by omega)
    _ = x.getLsbD j := getLsbD_permute_permute_dst x hj

/-- The source of each bit is a product in `Fin 16` by 11, which is odd. -/
theorem onesIn_permute (x : Half) : onesIn (permute x) = onesIn x :=
  onesIn_eq_of_reindexed (σ := fun j => 11 * j) (by decide) fun j => getLsbD_permute x j.isLt

theorem onesIn_inversePermute (x : Half) : onesIn (inversePermute x) = onesIn x :=
  onesIn_eq_of_reindexed (σ := fun j => 3 * j) (by decide) fun j => getLsbD_inversePermute x j.isLt

/-- Settles O41: the laws are those of multiplication by 3 and by 11 modulo 16, which both fix 0 and 8. -/
theorem permutationLaws : Obligations.PermutationLaws := by
  refine ⟨fun x => ?_, by decide⟩
  exact ⟨inversePermute_permute x, permute_inversePermute x, fun i => getLsbD_permute_permute_dst x,
    permute_order_four x, getLsbD_permute x (j := 0) (by decide), getLsbD_permute x (j := 8) (by decide),
    getLsbD_inversePermute x (j := 0) (by decide), getLsbD_inversePermute x (j := 8) (by decide),
    onesIn_permute x, onesIn_inversePermute x⟩

end Sys2Proof.Machine
end

section
/-! Proofs of the statements of 45_feistel_round_engine.md. `encRound_join` and `decRound_join` say once what a round makes
of a block given by its halves (R251, R252); one round undoes the other since each round gives F the half it keeps. -/

namespace Sys2Proof.Machine

/-! ## ROUNDF, ENC_ROUND and DEC_ROUND (R255, R256, R257) -/

/-- Settles O42: each of the three commands checks for the tables and writes DOUT alone. -/
theorem roundCommandsApplyOneRound : Obligations.RoundCommandsApplyOneRound := by
  refine ⟨fun k => ⟨?_, ?_, ?_⟩, fun k s hvalid => ⟨?_, ?_, ?_⟩, fun k s hinvalid => ⟨?_, ?_, ?_⟩⟩
  · exact decode_ofNat (i := .roundf k) 0x50000000 (by simp [opcOf]) rfl
  · exact decode_ofNat (i := .encRound k) 0x51000000 (by simp [opcOf]) rfl
  · exact decode_ofNat (i := .decRound k) 0x52000000 (by simp [opcOf]) rfl
  · exact (exec_roundf k s).trans (command_needSbox_setDout _ hvalid)
  · exact (exec_encRound k s).trans (command_needSbox_setDout _ hvalid)
  · exact (exec_decRound k s).trans (command_needSbox_setDout _ hvalid)
  · exact exec_noSbox (i := .roundf k) rfl hinvalid
  · exact exec_noSbox (i := .encRound k) rfl hinvalid
  · exact exec_noSbox (i := .decRound k) rfl hinvalid

/-! ## One round undoes the other (R253) -/

theorem encRound_join (t : Table) (l r k : Half) :
    encRound t (joinHalves l r) k = joinHalves r (l ^^^ roundF t r k) := by
  rw [encRound, highHalf_join, lowHalf_join]

theorem decRound_join (t : Table) (l r k : Half) :
    decRound t (joinHalves l r) k = joinHalves (r ^^^ roundF t l k) l := by
  rw [decRound, highHalf_join, lowHalf_join]

theorem decRound_encRound (t : Table) (b : Word) (k : Half) : decRound t (encRound t b k) k = b := by
  rw [encRound, decRound_join, xor_cancel_right, join_halves]

theorem encRound_decRound (t : Table) (b : Word) (k : Half) : encRound t (decRound t b k) k = b := by
  rw [decRound, encRound_join, xor_cancel_right, join_halves]

/-- Settles O43: each law is a composition of the two rounds. -/
theorem roundsUndoEachOther : Obligations.RoundsUndoEachOther :=
  fun t b k => ⟨decRound_encRound t b k, encRound_decRound t b k⟩

end Sys2Proof.Machine
end

section
/-! Proofs of the statements of 46_feistel_block.md. `encryptBlock_eq` and `decryptBlock_eq` say once what the two block
functions return: one schedule, applied forwards or backwards. `exec_block_finish` says once what a block command does
when its checks pass, for either block function. -/

namespace Sys2Proof.Machine

/-! ## The block functions as folds over one schedule (R270, R271) -/

theorem encryptBlock_eq (t : Table) (b s : Word) (r : Nat) :
    encryptBlock t b s r = ((subkeys s r).1.foldl (encRound t) b, lfsrAfter r s, (subkeys s r).1) := by
  rw [← subkeys_snd]
  rfl

theorem decryptBlock_eq (t : Table) (b s : Word) (r : Nat) :
    decryptBlock t b s r = ((subkeys s r).1.reverse.foldl (decRound t) b, lfsrAfter r s, (subkeys s r).1) := by
  rw [← subkeys_snd]
  rfl

/-- One more round puts one more subkey at the end of the schedule (R181). -/
theorem subkeys_fst_succ' (s : Word) (r : Nat) :
    (subkeys s (r + 1)).1 = (subkeys s r).1 ++ [lowHalf (lfsrAfter (r + 1) s)] := by
  induction r generalizing s with
  | zero => rfl
  | succ r ih => rw [subkeys_succ s (r + 1), ih, subkeys_succ s r, lfsrAfter_succ (r + 1), List.cons_append]

theorem encryptBlock_succ (t : Table) (b s : Word) (r : Nat) :
    encryptBlock t b s (r + 1) =
      (encRound t (encryptBlock t b s r).1 (lowHalf (lfsrAfter (r + 1) s)), lfsrAfter (r + 1) s,
        (encryptBlock t b s r).2.2 ++ [lowHalf (lfsrAfter (r + 1) s)]) := by
  rw [encryptBlock_eq, encryptBlock_eq, subkeys_fst_succ', List.foldl_concat]

theorem decryptBlock_succ (t : Table) (b s : Word) (r : Nat) :
    decryptBlock t b s (r + 1) =
      ((decryptBlock t (decRound t b (lowHalf (lfsrAfter (r + 1) s))) s r).1, lfsrAfter (r + 1) s,
        (decryptBlock t b s r).2.2 ++ [lowHalf (lfsrAfter (r + 1) s)]) := by
  rw [decryptBlock_eq, decryptBlock_eq, decryptBlock_eq, subkeys_fst_succ', List.reverse_concat, List.foldl_cons]

/-- Settles O45: the last subkey is the last step of a fold over the schedule, and the first of one over its reverse. -/
theorem blockFunctionsGoRoundByRound : Obligations.BlockFunctionsGoRoundByRound :=
  ⟨fun _ _ _ => ⟨rfl, rfl⟩, fun t b s r => ⟨encryptBlock_succ t b s r, decryptBlock_succ t b s r⟩⟩

/-! ## One block function undoes the other (R272, R273) -/

theorem decryptBlock_encryptBlock (t : Table) (b s : Word) (r : Nat) :
    (decryptBlock t (encryptBlock t b s r).1 s r).1 = b := by
  induction r with
  | zero => rfl
  | succ r ih => rw [decryptBlock_succ, encryptBlock_succ, decRound_encRound, ih]

theorem encryptBlock_decryptBlock (t : Table) (b s : Word) (r : Nat) :
    (encryptBlock t (decryptBlock t b s r).1 s r).1 = b := by
  induction r generalizing b with
  | zero => rfl
  | succ r ih => rw [encryptBlock_succ, decryptBlock_succ, ih, encRound_decRound]

/-- Both directions report what the schedule alone gives: its last state and its subkeys. -/
theorem decryptBlock_snd (t : Table) (b c s : Word) (r : Nat) :
    (decryptBlock t b s r).2 = (encryptBlock t c s r).2 := by
  rw [decryptBlock_eq, encryptBlock_eq]

/-- Settles O46: decryption is a two-sided inverse of encryption, which makes it a bijection. -/
theorem blockDecryptionUndoesEncryption : Obligations.BlockDecryptionUndoesEncryption := by
  intro t s r
  have hleft := fun b => decryptBlock_encryptBlock t b s r
  have hright := fun b => encryptBlock_decryptBlock t b s r
  exact ⟨fun b => ⟨hleft b, hright b, decryptBlock_snd t _ b s r⟩,
    Function.bijective_iff_has_inverse.2 ⟨fun b => (decryptBlock t b s r).1, hleft, hright⟩⟩

/-! ## ENC_BLK and DEC_BLK (R275, R276) -/

/-- Command `i` checks for the tables and for a legal round count, and writes what the block function `f` makes of DIN0,
LFSR and ROUNDS. -/
def RunsBlockFunction (i : Instr) (f : Table → Word → Word → Nat → Word × Word × List Half) : Prop :=
  ∀ s, exec i s = command s [needSbox s, needRounds s] fun s => setBlock (f s.sbox s.din0 s.lfsr s.rounds.toNat) s

theorem encBlk_runs_encryptBlock : RunsBlockFunction .encBlk encryptBlock := exec_encBlk

theorem decBlk_runs_decryptBlock : RunsBlockFunction .decBlk decryptBlock := exec_decBlk

/-- A check that passes is as good as none. -/
theorem command_cons_of_passing {s : State} {c : Check} (cs : List Check) (body : State → State) (h : c.1 = true) :
    command s (c :: cs) body = command s cs body := by
  rw [command, firstFailing, if_pos h, command]

/-- The log of r subkeys: subkey j below r, and 0 from r on (R46). -/
theorem getElem_logSubkeys {sk : List Half} {r : Nat} (hlen : sk.length = r) (j : Fin 16) :
    (logSubkeys sk)[j] = if j.val < r then sk.getD j.val 0#16 else 0#16 := by
  rw [logSubkeys_get]
  split
  · next => rfl
  · next hj => exact List.getD_eq_default _ _ (hlen.trans_le (not_lt.1 hj))

section
variable {i : Instr} {f : Table → Word → Word → Nat → Word × Word × List Half} {s : State}

theorem exec_block_finish (hi : RunsBlockFunction i f) (hvalid : s.sboxValid = true) (hrounds : RoundsLegal s) :
    exec i s = .next (finish (setBlock (f s.sbox s.din0 s.lfsr s.rounds.toNat) s)) :=
  (hi s).trans (command_ok s _ _ (by simpa using ⟨hvalid, hrounds⟩))

theorem exec_block_badRounds (hi : RunsBlockFunction i f) (hvalid : s.sboxValid = true) (hrounds : ¬RoundsLegal s) :
    exec i s = .next (raise .badRounds s) := by
  rw [hi s, command_cons_of_passing _ _ hvalid]
  exact command_of_failing _ _ (mt (needRounds_fst s).1 hrounds)

/-- The log that a completed block command leaves is the schedule's, entry by entry. -/
theorem exists_log_of_block (hi : RunsBlockFunction i f) (hlen : ∀ t b x r, (f t b x r).2.2.length = r)
    (hvalid : s.sboxValid = true) (hrounds : RoundsLegal s) :
    ∃ log : Vector Half 16,
      exec i s = .next { s with
        pend := none, done := true
        dout := (f s.sbox s.din0 s.lfsr s.rounds.toNat).1
        lfsr := (f s.sbox s.din0 s.lfsr s.rounds.toNat).2.1
        sklog := log } ∧
      ∀ j : Fin 16, log[j] = if j.val < s.rounds.toNat
        then (f s.sbox s.din0 s.lfsr s.rounds.toNat).2.2.getD j.val 0#16 else 0#16 :=
  ⟨_, exec_block_finish hi hvalid hrounds, getElem_logSubkeys (hlen _ _ _ _)⟩

end

theorem encryptBlock_subkeys_length (t : Table) (b s : Word) (r : Nat) : (encryptBlock t b s r).2.2.length = r := by
  rw [encryptBlock_eq, subkeys_length]

theorem decryptBlock_subkeys_length (t : Table) (b s : Word) (r : Nat) : (decryptBlock t b s r).2.2.length = r := by
  rw [decryptBlock_eq, subkeys_length]

/-- Settles O44: the two checks pass, or the tables are missing, or the round count is the first failing check. -/
theorem blockCommandsRunTheCipher : Obligations.BlockCommandsRunTheCipher := by
  refine ⟨decode_encode (i := .encBlk) rfl, decode_encode (i := .decBlk) rfl, fun s hvalid hrounds => ⟨?_, ?_⟩,
    fun s hinvalid => ⟨?_, ?_⟩, fun s hvalid hillegal => ⟨?_, ?_⟩⟩
  · exact exists_log_of_block encBlk_runs_encryptBlock encryptBlock_subkeys_length hvalid hrounds
  · exact exists_log_of_block decBlk_runs_decryptBlock decryptBlock_subkeys_length hvalid hrounds
  · exact exec_noSbox (i := .encBlk) rfl hinvalid
  · exact exec_noSbox (i := .decBlk) rfl hinvalid
  · exact exec_block_badRounds encBlk_runs_encryptBlock hvalid hillegal
  · exact exec_block_badRounds decBlk_runs_decryptBlock hvalid hillegal

/-! ## A host that chains block commands (R277) -/

theorem hostChain_cons_of_next {i : Instr} {b : Word} {s t : State} (bs : List Word)
    (h : exec i { s with din0 := b } = .next t) :
    hostChain i (b :: bs) s = (hostChain i bs t).map fun r => (t.dout :: r.1, r.2) := by
  rw [hostChain, h]

/-- Each completed command leaves its block in DOUT and the chain's state in LFSR, and keeps the tables and ROUNDS, so
the rest of the list starts where the chain does. -/
theorem hostChain_eq_chain {i : Instr} {f : Table → Word → Word → Nat → Word × Word × List Half}
    (hi : RunsBlockFunction i f) (bs : List Word) {s : State} (sk : List Half) (hvalid : s.sboxValid = true)
    (hrounds : RoundsLegal s) :
    ∃ t, hostChain i bs s = some ((chain (fun b x => f s.sbox b x s.rounds.toNat) bs s.lfsr sk).1, t) ∧
      t.lfsr = (chain (fun b x => f s.sbox b x s.rounds.toNat) bs s.lfsr sk).2.1 := by
  induction bs generalizing s sk with
  | nil => exact ⟨s, rfl, rfl⟩
  | cons b bs ih =>
    have hfirst := exec_block_finish (s := { s with din0 := b }) hi hvalid hrounds
    obtain ⟨t, hrest, hlast⟩ := ih (s := finish (setBlock (f s.sbox b s.lfsr s.rounds.toNat) { s with din0 := b }))
      (f s.sbox b s.lfsr s.rounds.toNat).2.2 hvalid hrounds
    refine ⟨t, ?_, hlast⟩
    rw [hostChain_cons_of_next bs hfirst, hrest]
    rfl

/-- Settles O48, by the one induction over the blocks for either command. -/
theorem hostChainingMatchesTheMessageChain : Obligations.HostChainingMatchesTheMessageChain :=
  fun _ bs hvalid hrounds =>
    ⟨hostChain_eq_chain encBlk_runs_encryptBlock bs [] hvalid hrounds,
      hostChain_eq_chain decBlk_runs_decryptBlock bs [] hvalid hrounds⟩

/-! ## The known vector (R278) -/

theorem subkeys_one_four : subkeys 0x00000001#32 4 = ([0#16, 0#16, 0#16, 0#16], 0xF0000000#32) := by decide

/-- From state 1 the block runs through four rounds with subkey 0, whatever the table. -/
theorem encryptBlock_one_four (t : Table) (b : Word) :
    encryptBlock t b 0x00000001#32 4 =
      ([0#16, 0#16, 0#16, 0#16].foldl (encRound t) b, 0xF0000000#32, [0#16, 0#16, 0#16, 0#16]) := by
  rw [encryptBlock, subkeys_one_four]

/-- Settles O47: the schedule is the same for every table, and the two blocks are those four rounds evaluated. -/
theorem knownVectorHasZeroSubkeys : Obligations.KnownVectorHasZeroSubkeys := by
  refine ⟨fun t => by rw [encryptBlock_one_four], ?_, ?_⟩
  · rw [encryptBlock_one_four]
    decide
  · rw [encryptBlock_one_four]
    decide

end Sys2Proof.Machine
end

section
/-! Proofs of the statements of 47_block_chaining_fsm.md. `unpad_eq_some_iff` says once which inputs `unpad` accepts,
`getElem?_chain` which state each block of a chain meets, and `chain_chain` how one chain undoes another. Each message
command has one lemma for its failing early checks and one for what it stores when they pass. -/

namespace Sys2Proof.Machine

/-! ## Padding (R290, R291) -/

/-- `unpad` takes n bytes of value n off the end, for an n from 1 to 4, and accepts nothing else. -/
theorem unpad_eq_some_iff (d e : List Byte) :
    unpad d = some e ↔ ∃ n, 1 ≤ n ∧ n ≤ 4 ∧ d = e ++ List.replicate n (BitVec.ofNat 8 n) := by
  constructor
  · intro h
    unfold unpad at h
    split at h
    · cases h
    · next last hlast =>
      dsimp only at h
      split_ifs at h with hrange hshort hall
      have hpadding : d.drop (d.length - last.toNat) = List.replicate last.toNat last :=
        List.eq_replicate_iff.2 ⟨by rw [List.length_drop]; omega, by simpa using hall⟩
      refine ⟨last.toNat, by omega, by omega, ?_⟩
      rw [BitVec.ofNat_toNat, BitVec.setWidth_eq, ← hpadding, ← Option.some.inj h, List.take_append_drop]
  · rintro ⟨n, hpos, hle, rfl⟩
    have hn : (BitVec.ofNat 8 n).toNat = n := Nat.mod_eq_of_lt (by omega)
    have hlast : (e ++ List.replicate n (BitVec.ofNat 8 n)).getLast? = some (BitVec.ofNat 8 n) := by
      simp [List.getLast?_append, List.getLast?_replicate, show n ≠ 0 by omega]
    have hrange : ¬n = 0 ∧ n ≤ 4 := ⟨by omega, hle⟩
    simpa [unpad, hlast, hn] using hrange

theorem unpad_pad (d : List Byte) : unpad (pad d) = some d :=
  (unpad_eq_some_iff _ d).2 ⟨4 - d.length % 4, by omega, by omega, rfl⟩

/-- What `unpad` accepts loses 1 to 4 bytes. -/
theorem length_of_unpad {d e : List Byte} (h : unpad d = some e) : d.length - 4 ≤ e.length ∧ e.length < d.length := by
  obtain ⟨n, hpos, hle, rfl⟩ := (unpad_eq_some_iff d e).1 h
  rw [List.length_append, List.length_replicate]
  omega

/-- Settles O49: `unpad` fails where it accepts no result, and the padding is one it accepts. -/
theorem paddingIsRecognisedExactly : Obligations.PaddingIsRecognisedExactly := by
  refine ⟨fun d => ⟨⟨_, by omega, by omega, rfl, rfl⟩, pad_length d, unpad_pad d⟩, fun d => ?_,
    fun d e => (unpad_eq_some_iff d e).1⟩
  rw [Option.eq_none_iff_forall_ne_some]
  constructor
  · rintro h n hpos hle ⟨e, he⟩
    exact h e ((unpad_eq_some_iff d e).2 ⟨n, hpos, hle, he⟩)
  · intro h e he
    obtain ⟨n, hpos, hle, hd⟩ := (unpad_eq_some_iff d e).1 he
    exact h n hpos hle ⟨e, hd⟩

/-! ## Blocks and bytes (R292, R293) -/

theorem toBytes_cons (v : Word) (b : List Word) : toBytes (v :: b) = bytesOfWord v ++ toBytes b := rfl

theorem toBlocks_bytesOfWord_append (v : Word) (d : List Byte) : toBlocks (bytesOfWord v ++ d) = v :: toBlocks d :=
  congrArg (· :: toBlocks d) (wordOfBytes_bytes v)

theorem toBlocks_toBytes (b : List Word) : toBlocks (toBytes b) = b := by
  induction b with
  | nil => rfl
  | cons v b ih => rw [toBytes_cons, toBlocks_bytesOfWord_append, ih]

theorem toBytes_toBlocks (d : List Byte) (h : d.length % 4 = 0) : toBytes (toBlocks d) = d := by
  induction d using toBlocks.induct with
  | case1 b0 b1 b2 b3 rest ih =>
    simp only [List.length_cons] at h
    rw [toBlocks, toBytes_cons, bytesOfWord_word, ih (by omega)]
    rfl
  | case2 => rfl
  | case3 | case4 | case5 => simp at h

/-- Bytes 4k to 4k+3 of `to_bytes` are those of block k. -/
theorem getElem?_toBytes {b : List Word} {k j : Nat} {v : Word} (h : b[k]? = some v) (hj : j < 4) :
    (toBytes b)[4 * k + j]? = (bytesOfWord v)[j]? := by
  induction b generalizing k with
  | nil => cases h
  | cons u b ih =>
    rw [toBytes_cons]
    cases k with
    | zero =>
      obtain rfl : u = v := Option.some.inj h
      rw [Nat.mul_zero, Nat.zero_add, List.getElem?_append_left (by simpa using hj)]
    | succ k =>
      rw [List.getElem?_append_right (by rw [bytesOfWord_length]; omega), bytesOfWord_length,
        show 4 * (k + 1) + j - 4 = 4 * k + j by omega]
      exact ih h

/-- Block k of `to_blocks` is read off bytes 4k to 4k+3, which are block k's. -/
theorem getElem?_toBlocks {d : List Byte} {k : Nat} {b0 b1 b2 b3 : Byte} (hd : d.length % 4 = 0)
    (h0 : d[4 * k]? = some b0) (h1 : d[4 * k + 1]? = some b1) (h2 : d[4 * k + 2]? = some b2)
    (h3 : d[4 * k + 3]? = some b3) : (toBlocks d)[k]? = some (wordOfBytes b0 b1 b2 b3) := by
  have hlast : 4 * k + 3 < d.length := (List.getElem?_eq_some_iff.1 h3).1
  have hk : k < (toBlocks d).length := by rw [toBlocks_length d hd]; omega
  have hblock : (toBlocks d)[k]? = some (toBlocks d)[k] := List.getElem?_eq_getElem hk
  have hbyte (j : Nat) (hj : j < 4) : d[4 * k + j]? = (bytesOfWord (toBlocks d)[k])[j]? := by
    rw [← getElem?_toBytes hblock hj, toBytes_toBlocks d hd]
  rw [hblock, ← wordOfBytes_bytes (toBlocks d)[k], Option.some.inj (h0.symm.trans (hbyte 0 (by decide))),
    Option.some.inj (h1.symm.trans (hbyte 1 (by decide))), Option.some.inj (h2.symm.trans (hbyte 2 (by decide))),
    Option.some.inj (h3.symm.trans (hbyte 3 (by decide)))]

/-- Settles O50: each conversion is read off the bytes of one block. -/
theorem blocksAndBytesUndoEachOther : Obligations.BlocksAndBytesUndoEachOther :=
  ⟨fun d hd => ⟨toBytes_toBlocks d hd, toBlocks_length d hd⟩, fun b => ⟨toBlocks_toBytes b, toBytes_length b⟩,
    fun _ _ _ _ _ _ hd h0 h1 h2 h3 => getElem?_toBlocks hd h0 h1 h2 h3,
    fun _ _ _ h => ⟨getElem?_toBytes (j := 0) h (by decide), getElem?_toBytes h (by decide),
      getElem?_toBytes h (by decide), getElem?_toBytes h (by decide)⟩⟩

/-! ## Chains of blocks (R294, R295, R300) -/

section
variable {f g : Word → Word → Word × Word × List Half}

theorem chain_cons (b : Word) (bs : List Word) (s : Word) (sk : List Half) :
    chain f (b :: bs) s sk =
      ((f b s).1 :: (chain f bs (f b s).2.1 (f b s).2.2).1, (chain f bs (f b s).2.1 (f b s).2.2).2) := rfl

/-- Where each block moves the state r steps on, block k meets the state k * r steps on (R300). -/
theorem getElem?_chain {r : Nat} (hf : ∀ b s, (f b s).2.1 = lfsrAfter r s) {bs : List Word} {k : Nat} {b : Word}
    (s : Word) (sk : List Half) (h : bs[k]? = some b) :
    (chain f bs s sk).1[k]? = some (f b (lfsrAfter (k * r) s)).1 := by
  induction bs generalizing k s sk with
  | nil => cases h
  | cons u bs ih =>
    rw [chain_cons]
    cases k with
    | zero =>
      obtain rfl : u = b := Option.some.inj h
      rw [Nat.zero_mul]
      rfl
    | succ k =>
      rw [List.getElem?_cons_succ, ih _ _ h, hf, Nat.succ_mul]
      exact congrArg (fun x => some (f b x).1) (Function.iterate_add_apply _ (k * r) r s).symm

/-- A chain undoes another where its block function does, from the same state on (R298). -/
theorem chain_chain (hblock : ∀ b s, (g (f b s).1 s).1 = b) (hstate : ∀ b s, (g (f b s).1 s).2 = (f b s).2)
    (bs : List Word) (s : Word) (sk : List Half) :
    chain g (chain f bs s sk).1 s sk = (bs, (chain f bs s sk).2) := by
  induction bs generalizing s sk with
  | nil => rfl
  | cons b bs ih => rw [chain_cons, chain_cons, hblock, hstate, ih]

theorem length_chain_subkeys {r : Nat} (hf : ∀ b s, (f b s).2.2.length = r) (bs : List Word) (s : Word)
    {sk : List Half} (hsk : sk.length = r) : (chain f bs s sk).2.2.length = r := by
  induction bs generalizing s sk with
  | nil => exact hsk
  | cons b bs ih => exact ih _ (hf b s)

/-- A chain of at least one block ends with the subkeys of a block (R294). -/
theorem length_chain_subkeys_of_ne_nil {r : Nat} (hf : ∀ b s, (f b s).2.2.length = r) {bs : List Word}
    (hbs : bs ≠ []) (s : Word) (sk : List Half) : (chain f bs s sk).2.2.length = r := by
  cases bs with
  | nil => exact absurd rfl hbs
  | cons b bs => exact length_chain_subkeys hf bs _ (hf b s)

end

theorem encryptBlock_state (t : Table) (b s : Word) (r : Nat) : (encryptBlock t b s r).2.1 = lfsrAfter r s := by
  rw [encryptBlock_eq]

theorem decryptBlock_state (t : Table) (b s : Word) (r : Nat) : (decryptBlock t b s r).2.1 = lfsrAfter r s := by
  rw [decryptBlock_eq]

theorem toBlocks_encryptMessage (t : Table) (m : List Byte) (key : Word) (r : Nat) :
    toBlocks (encryptMessage t m key r).1 = (chain (fun b s => encryptBlock t b s r) (toBlocks (pad m)) key []).1 :=
  toBlocks_toBytes _

theorem toBlocks_decryptMessage (t : Table) (c : List Byte) (key : Word) (r : Nat) :
    toBlocks (decryptMessage t c key r).1 = (chain (fun b s => decryptBlock t b s r) (toBlocks c) key []).1 :=
  toBlocks_toBytes _

/-- Settles O51: each block moves the state ROUNDS steps on, whatever it holds. -/
theorem eachBlockIsCipheredOnItsOwn : Obligations.EachBlockIsCipheredOnItsOwn := by
  refine ⟨fun t m key r k b hb => ?_, fun t c key r k b _ hb => ?_⟩
  · rw [toBlocks_encryptMessage]
    exact getElem?_chain (fun b s => encryptBlock_state t b s r) key [] hb
  · rw [toBlocks_decryptMessage]
    exact getElem?_chain (fun b s => decryptBlock_state t b s r) key [] hb

/-! ## The message functions (R294, R295, R298) -/

/-- Decryption chains the ciphertext's blocks back to the padded plaintext's, through the same states. -/
theorem decryptMessage_encryptMessage (t : Table) (m : List Byte) (key : Word) (r : Nat) :
    decryptMessage t (encryptMessage t m key r).1 key r = (pad m, some m, (encryptMessage t m key r).2) := by
  have hpad : toBytes (toBlocks (pad m)) = pad m := toBytes_toBlocks _ (by rw [pad_length]; omega)
  rw [decryptMessage, toBlocks_encryptMessage, chain_chain (fun b s => decryptBlock_encryptBlock t b s r)
    (fun b s => decryptBlock_snd t _ b s r)]
  dsimp only
  rw [hpad, unpad_pad]
  rfl

/-- Settles O54: the decrypted chain is the padded message, whose padding `unpad` takes off. -/
theorem messageDecryptionUndoesEncryption : Obligations.MessageDecryptionUndoesEncryption := by
  intro t m key r
  rw [decryptMessage_encryptMessage]
  exact ⟨rfl, rfl, rfl⟩

/-- The subkeys of the last block, of which the padding makes at least one. -/
theorem encryptMessage_subkeys_length (t : Table) (m : List Byte) (key : Word) (r : Nat) :
    (encryptMessage t m key r).2.2.length = r := by
  refine length_chain_subkeys_of_ne_nil (fun b s => encryptBlock_subkeys_length t b s r) (List.ne_nil_of_length_pos ?_)
    key []
  rw [toBlocks_length _ (by rw [pad_length]; omega), pad_length]
  omega

theorem decryptMessage_subkeys_length (t : Table) {c : List Byte} (key : Word) (r : Nat) (hwhole : c.length % 4 = 0)
    (hsome : c.length ≠ 0) : (decryptMessage t c key r).2.2.2.length = r := by
  refine length_chain_subkeys_of_ne_nil (fun b s => decryptBlock_subkeys_length t b s r) (List.ne_nil_of_length_pos ?_)
    key []
  rw [toBlocks_length c hwhole]
  omega


/-! ## Bytes read and written (R89, R19) -/

theorem holdsBytes_memWrite (m : Memory) (d : List Byte) : HoldsBytes (memWrite m 0 d) d := by
  intro i hi
  rw [byte?_memWrite, if_pos ⟨Nat.zero_le i, by omega⟩, Nat.sub_zero]

theorem holdsBytes_of_append {m : Memory} {d e : List Byte} (h : HoldsBytes m (d ++ e)) : HoldsBytes m d := by
  intro i hi
  rw [h i (by rw [List.length_append]; omega), List.getElem?_append_left hi]

/-- A message whose bytes are all known is read as it is. -/
theorem messageIn_eq_of_holdsBytes {s : State} {d : List Byte} (hlen : d.length = s.msgLen.toNat)
    (h : HoldsBytes s.ibuf d) : messageIn s = d := by
  obtain ⟨hread, hknown⟩ := messageIn_reads s
  refine List.ext_getElem (hread.trans hlen.symm) fun i hi hd => ?_
  have hbyte : (messageIn s)[i]? = some d[i] :=
    hknown i _ (by omega) ((h i hd).trans (List.getElem?_eq_getElem hd))
  exact Option.some.inj ((List.getElem?_eq_getElem hi).symm.trans hbyte)

/-! ## The early checks (R296, R297, R332) -/

/-- The first failing check of a list that starts with `c`, by its code. -/
theorem code_firstFailing_cons (c : Check) (cs : List Check) :
    (firstFailing (c :: cs)).map ErrKind.code =
      if ¬c.1 = true then some c.2.code else (firstFailing cs).map ErrKind.code := by
  obtain ⟨passes, e⟩ := c
  cases passes <;> rfl

theorem earlyError_encMsg (s : State) : earlyError .encMsg s = (firstFailing (encMsgChecks s)).map ErrKind.code := by
  simp only [encMsgChecks, code_firstFailing_cons]
  simp [earlyError, usesSbox, UsesMessage, UsesRounds, firstFailing, ErrKind.code]

theorem earlyError_decMsg (s : State) : earlyError .decMsg s = (firstFailing (decMsgChecks s)).map ErrKind.code := by
  simp only [decMsgChecks, code_firstFailing_cons]
  simp [earlyError, usesSbox, UsesMessage, UsesRounds, firstFailing, ErrKind.code]

theorem exec_encMsg_failedWith {s : State} {c : BitVec 4} (h : earlyError .encMsg s = some c) :
    exec .encMsg s = .next (failedWith c s) := by
  obtain ⟨e, he, rfl⟩ := Option.map_eq_some_iff.1 ((earlyError_encMsg s).symm.trans h)
  rw [exec_encMsg, command, he]
  rfl

theorem exec_decMsg_failedWith {s : State} {c : BitVec 4} (h : earlyError .decMsg s = some c) :
    exec .decMsg s = .next (failedWith c s) := by
  obtain ⟨e, he, rfl⟩ := Option.map_eq_some_iff.1 ((earlyError_decMsg s).symm.trans h)
  rw [exec_decMsg, execDecMsg, he]
  rfl

/-! ## ENC_MSG and DEC_MSG with their early checks passed (R296, R297) -/

/-- What ENC_MSG computes from the message it reads. -/
abbrev encrypted (s : State) : List Byte × Word × List Half :=
  encryptMessage s.sbox (messageIn s) s.key s.rounds.toNat

/-- What DEC_MSG computes from the ciphertext it reads. -/
abbrev decrypted (s : State) : List Byte × Option (List Byte) × Word × List Half :=
  decryptMessage s.sbox (messageIn s) s.key s.rounds.toNat

/-- `MessageStored out l sk s t`: `t` holds `out` in OBUF from 0, `l` in LFSR and the log of `sk`. -/
def MessageStored (out : List Byte) (l : Word) (sk : List Half) (t : State) : Prop :=
  HoldsBytes t.obuf out ∧ t.lfsr = l ∧ t.sklog = logSubkeys sk

theorem messageStored_finish (out : List Byte) (k : Nat) (l : Word) (sk : List Half) (s : State) :
    MessageStored out l sk (finish (setMessage out k l sk s)) :=
  ⟨holdsBytes_memWrite s.obuf out, rfl, rfl⟩

theorem messageStored_raise (e : ErrKind) (out : List Byte) (k : Nat) (l : Word) (sk : List Half) (s : State) :
    MessageStored out l sk (raise e (setMessage out k l sk s)) :=
  ⟨holdsBytes_memWrite s.obuf out, rfl, rfl⟩

section
variable {s : State} (hsbox : s.sboxValid = true) (hkey : s.keyValid = true) (hrounds : RoundsLegal s)
  (hfits : s.msgLen.toNat ≤ s.cfg.msgMaxBytes)
include hsbox hkey hrounds hfits

theorem exec_encMsg_finish : exec .encMsg s =
    .next (finish (setMessage (encrypted s).1 (encrypted s).1.length (encrypted s).2.1 (encrypted s).2.2 s)) :=
  command_ok s _ _ (by simpa [encMsgChecks] using ⟨hsbox, hkey, hrounds, hfits⟩)

/-- DEC_MSG stores the decrypted, still padded bytes whatever `unpad` makes of them, and reports its answer (R297). -/
theorem exec_decMsg_stores (haligned : s.msgLen.toNat % 4 = 0) (hsome : s.msgLen.toNat ≠ 0) :
    ∃ t, exec .decMsg s = .next t ∧
      MessageStored (decrypted s).1 (decrypted s).2.2.1 (decrypted s).2.2.2 t ∧
      (∀ e, (decrypted s).2.1 = some e → NoErrorRaised s t ∧ t.outLen = BitVec.ofNat 32 e.length) ∧
      ((decrypted s).2.1 = none → t.err = true ∧ t.errCode = 1#4 ∧ t.outLen = 0#32) := by
  have hpass : firstFailing (decMsgChecks s) = none :=
    (firstFailing_eq_none _).2 (by simpa [decMsgChecks] using ⟨hsbox, hkey, hrounds, hfits, haligned, hsome⟩)
  rw [exec_decMsg]
  rcases execDecMsg_cases s with ⟨e, hfail, -⟩ | ⟨-, q, u, l, sk, hq, hu⟩
  · exact nomatch hpass.symm.trans hfail
  · rw [show decrypted s = (q, u, l, sk) from hq]
    rcases hu with ⟨plain, rfl, h⟩ | ⟨rfl, h⟩
    · refine ⟨_, h, messageStored_finish q _ l sk s, fun e he => ?_, nofun⟩
      obtain rfl : plain = e := Option.some.inj he
      exact ⟨⟨rfl, rfl⟩, rfl⟩
    · exact ⟨_, h, messageStored_raise _ q _ l sk s, nofun, fun _ => ⟨rfl, rfl, rfl⟩⟩

end

theorem length_encrypted (s : State) : (encrypted s).1.length = 4 * (s.msgLen.toNat / 4 + 1) := by
  rw [encryptMessage_length, messageIn_length]

/-- OUT_LEN holds the length of every ciphertext (R11). -/
theorem toNat_length_encrypted {s : State} (hfits : s.msgLen.toNat ≤ s.cfg.msgMaxBytes) :
    (BitVec.ofNat 32 (encrypted s).1.length).toNat = (encrypted s).1.length := by
  have hwindow := s.cfg.fitsWindow
  rw [length_encrypted, BitVec.toNat_ofNat]
  omega

/-- Settles O52: the message is the one the command reads; what it stores and what it leaves alone are lemmas of their
own. -/
theorem encMsgEncryptsTheMessage : Obligations.EncMsgEncryptsTheMessage := by
  refine ⟨decode_encode (i := .encMsg) rfl, fun s hsbox hkey hrounds hfits => ?_, fun s c => exec_encMsg_failedWith⟩
  have hexec := exec_encMsg_finish hsbox hkey hrounds hfits
  obtain ⟨hholds, hlfsr, -⟩ := messageStored_finish (encrypted s).1 (encrypted s).1.length _ (encrypted s).2.2 s
  obtain ⟨hdone, hdout, hsession, hops, hsur, hibuf, hobuf⟩ := messageCommandsFrame .encMsg s _ (.inl rfl) hexec
  exact ⟨messageIn s, _, messageIn_reads s, hexec, hdone, ⟨rfl, rfl⟩, length_encrypted s, hholds, hobuf,
    (toNat_length_encrypted hfits).trans (length_encrypted s), hlfsr,
    getElem_logSubkeys (encryptMessage_subkeys_length _ _ _ _), hdout, hibuf, hsession, hops, hsur⟩

/-- Settles O53: `unpad` decides between the two completions, which store the same bytes. -/
theorem decMsgDecryptsTheMessage : Obligations.DecMsgDecryptsTheMessage := by
  refine ⟨decode_encode (i := .decMsg) rfl, fun s hsbox hkey hrounds hfits haligned hsome => ?_,
    fun s c => exec_decMsg_failedWith⟩
  obtain ⟨t, hexec, ⟨hholds, hlfsr, hlog⟩, hplain, hlate⟩ :=
    exec_decMsg_stores hsbox hkey hrounds hfits haligned hsome
  have hread := messageIn_length s
  have hlen : (decrypted s).1.length = s.msgLen.toNat :=
    (decryptMessage_length _ _ _ _ (hread ▸ haligned)).trans hread
  obtain ⟨hdone, hdout, hsession, hops, hsur, hibuf, hobuf⟩ := messageCommandsFrame .decMsg s t (.inr rfl) hexec
  refine ⟨messageIn s, t, messageIn_reads s, hexec, hdone, hlen, hholds, hobuf, rfl, hlfsr, fun i => ?_, fun e he => ?_,
    hlate, hdout, hibuf, hsession, hops, hsur⟩
  · rw [hlog]
    exact getElem_logSubkeys (decryptMessage_subkeys_length _ _ _ (hread ▸ haligned) (hread ▸ hsome)) i
  · obtain ⟨hnoError, hout⟩ := hplain e he
    obtain ⟨hlow, hhigh⟩ := hlen ▸ length_of_unpad he
    refine ⟨hnoError, ?_, hlow, hhigh⟩
    rw [hout, BitVec.toNat_ofNat, Nat.mod_eq_of_lt (hhigh.trans s.msgLen.isLt)]

/-- DEC_MSG in a state that holds in IBUF the ciphertext of another state's message, with the same table, key and ROUNDS,
gives that message back (R298). -/
theorem exec_decMsg_of_holds_encrypted {s t : State} (hsession : SameSession s t) (hsbox : s.sboxValid = true)
    (hkey : s.keyValid = true) (hsame : t.rounds = s.rounds) (hrounds : RoundsLegal s)
    (hfits : t.msgLen.toNat ≤ t.cfg.msgMaxBytes) (hlen : t.msgLen.toNat = (encrypted s).1.length)
    (hholds : HoldsBytes t.ibuf (encrypted s).1) :
    ∃ u, exec .decMsg t = .next u ∧ NoErrorRaised t u ∧ u.outLen = s.msgLen ∧ HoldsBytes u.obuf (messageIn s) ∧
      u.lfsr = (encrypted s).2.1 := by
  obtain ⟨hkeyEq, hsboxEq, -, hkeyValid, hsboxValid⟩ := hsession
  have hblocks := hlen.trans (length_encrypted s)
  obtain ⟨u, hexec, ⟨hobuf, hlfsr, -⟩, hplain, -⟩ := exec_decMsg_stores (hsboxValid.trans hsbox)
    (hkeyValid.trans hkey) (by rwa [RoundsLegal, hsame]) hfits (by omega) (by omega)
  have hdecrypted : decrypted t = (pad (messageIn s), some (messageIn s), (encrypted s).2) := by
    rw [decrypted, messageIn_eq_of_holdsBytes hlen.symm hholds, hsboxEq, hkeyEq, hsame]
    exact decryptMessage_encryptMessage s.sbox (messageIn s) s.key s.rounds.toNat
  rw [hdecrypted] at hobuf hlfsr hplain
  obtain ⟨hnoError, hlength⟩ := hplain _ rfl
  refine ⟨u, hexec, hnoError, ?_, holdsBytes_of_append hobuf, hlfsr⟩
  rw [hlength, messageIn_length, BitVec.ofNat_toNat, BitVec.setWidth_eq]

/-- Settles O55: the copied bytes are the ciphertext in OBUF, and OUT_LEN is its length. -/
theorem encryptCopyDecryptReturnsTheMessage : Obligations.EncryptCopyDecryptReturnsTheMessage := by
  intro s hsbox hkey hrounds hfits
  refine ⟨messageIn s, _, messageIn_reads s, exec_encMsg_finish hsbox hkey hrounds hfits, fun ib hroom hcopy => ?_⟩
  have hout := toNat_length_encrypted hfits
  exact exec_decMsg_of_holds_encrypted ⟨rfl, rfl, rfl, rfl, rfl⟩ hsbox hkey rfl hrounds hroom hout fun i hi =>
    (hcopy i (hi.trans_eq hout.symm)).trans (holdsBytes_memWrite s.obuf _ i hi)

end Sys2Proof.Machine
end

section
/-! Proofs of the statements of 60_exceptions.md and 70_reset_and_hazards.md. Three lemmas carry them: `exec_answers` says
once which of R332's errors a command answers with, and what else it does then; `exists_run_of_pending` runs a pending
command to the event that ends it; and `step_of_resetEvent` is a reset event, with or without a host statement in it. -/

namespace Sys2Proof.Machine

/-! ## Early errors are failing checks (R330, R332) -/

/-- The checks of each command, in order (R332). -/
def checksOf (i : Instr) (s : State) : List Check :=
  match i with
  | .nop | .keyLoad | .rotl16 _ | .lfsrStep | .perm | .iperm => []
  | .sboxLoad => [(isPerm (hostTable s), .notPermutation)]
  | .sboxRd _ | .subst | .isubst | .roundf _ | .encRound _ | .decRound _ => [needSbox s]
  | .encBlk | .decBlk => [needSbox s, needRounds s]
  | .encMsg => encMsgChecks s
  | .decMsg => decMsgChecks s

/-- The first error by the causes of R330 is that of the first check to fail. -/
theorem earlyError_eq_firstFailing (i : Instr) (s : State) :
    earlyError i s = (firstFailing (checksOf i s)).map ErrKind.code := by
  cases i with
  | nop | keyLoad | sboxLoad | sboxRd imm | rotl16 imm | lfsrStep | subst | isubst | perm | iperm | roundf imm
  | encRound imm | decRound imm | encBlk | decBlk =>
    simp only [checksOf, code_firstFailing_cons, isPerm_hostTable_iff]
    simp [earlyError, usesSbox, UsesMessage, UsesRounds, firstFailing, ErrKind.code]
  | encMsg => exact earlyError_encMsg s
  | decMsg => exact earlyError_decMsg s

/-- Every command but DEC_MSG is its checks and a body that raises no error. -/
theorem exec_of_ne_decMsg {i : Instr} (hi : i ≠ .decMsg) :
    ∃ body, (∀ s, exec i s = command s (checksOf i s) body) ∧ ∀ s, NoErrorRaised s (body s) := by
  cases i with
  | decMsg => exact absurd rfl hi
  | sboxLoad => exact ⟨_, exec_sboxLoad, fun _ => ⟨rfl, rfl⟩⟩
  | encBlk => exact ⟨_, exec_encBlk, fun _ => ⟨rfl, rfl⟩⟩
  | decBlk => exact ⟨_, exec_decBlk, fun _ => ⟨rfl, rfl⟩⟩
  | encMsg => exact ⟨_, exec_encMsg, fun _ => ⟨rfl, rfl⟩⟩
  | nop | keyLoad | sboxRd imm | rotl16 imm | lfsrStep | subst | isubst | perm | iperm | roundf imm | encRound imm
  | decRound imm => exact ⟨_, fun _ => rfl, fun _ => ⟨rfl, rfl⟩⟩

/-- `LateError s t`: DEC_MSG stored its decrypted bytes and then raised INVALID_PADDING (R297). -/
def LateError (s t : State) : Prop := ∃ out l sk, t = raise .invalidPadding (setMessage out 0 l sk s)

/-- Everything a command answers: its first early error with no other effect, or, where none applies, a completion
without an error or the late error of DEC_MSG (R332). -/
theorem exec_answers (i : Instr) (s : State) :
    (∃ c, earlyError i s = some c ∧ exec i s = .next (failedWith c s)) ∨
      (earlyError i s = none ∧ ∃ t, exec i s = .next t ∧ (NoErrorRaised s t ∨ (i = .decMsg ∧ LateError s t))) := by
  rw [earlyError_eq_firstFailing]
  by_cases hi : i = .decMsg
  · subst hi
    rw [exec_decMsg]
    rcases execDecMsg_cases s with ⟨e, hfail, h⟩ | ⟨hpass, q, u, l, sk, -, ⟨plain, -, h⟩ | ⟨-, h⟩⟩
    · exact .inl ⟨e.code, congrArg _ hfail, h⟩
    · exact .inr ⟨congrArg _ hpass, _, h, .inl ⟨rfl, rfl⟩⟩
    · exact .inr ⟨congrArg _ hpass, _, h, .inr ⟨rfl, q, l, sk, rfl⟩⟩
  · obtain ⟨body, hexec, hbody⟩ := exec_of_ne_decMsg hi
    rw [hexec]
    rcases command_cases s (checksOf i s) body with ⟨e, hfail, h⟩ | ⟨hpass, h⟩
    · exact .inl ⟨e.code, congrArg _ hfail, h⟩
    · exact .inr ⟨congrArg _ hpass, _, h, .inl (hbody s)⟩

/-- Settles O28: an illegal word is decided by the decoder, and a command's answer by its first early error. -/
theorem firstApplicableErrorIsReported : Obligations.FirstApplicableErrorIsReported := by
  refine ⟨fun s w e => complete_of_illegal, fun i s c hearly => ?_, fun i s hearly => ?_⟩
  · rcases exec_answers i s with ⟨c', hc, h⟩ | ⟨hnone, -⟩
    · obtain rfl := Option.some.inj (hc.symm.trans hearly)
      exact h
    · exact nomatch hnone.symm.trans hearly
  · rcases exec_answers i s with ⟨c, hc, -⟩ | ⟨-, t, h, hanswer⟩
    · exact nomatch hc.symm.trans hearly
    · obtain ⟨hdone, -⟩ := exec_frame h
      refine ⟨t, h, hdone, hanswer.imp_right ?_⟩
      rintro ⟨hi, out, l, sk, rfl⟩
      exact ⟨hi, rfl, rfl, rfl⟩

/-- Settles O29: of the answers of a command, the two with an error are the early one, which `failedWith` is, and the late
one, whose writes are those of `setMessage`. -/
theorem errorsArePreciseAndLocal : Obligations.ErrorsArePreciseAndLocal := by
  intro s t w hpend hnoErr hcomplete herr
  cases hw : decode w with
  | error e =>
    obtain rfl := eq_of_next (complete_of_illegal hpend hw) hcomplete
    exact ⟨sameSession_raise .illegalCmd s, .inl rfl⟩
  | ok i =>
    have hexec : exec i s = .next t := (complete_of_decoded hpend hw).symm.trans hcomplete
    rcases exec_answers i s with ⟨c, -, h⟩ | ⟨hearly, u, h, ⟨hsame, -⟩ | ⟨rfl, hlate⟩⟩
    · obtain rfl := eq_of_next h hexec
      exact ⟨⟨rfl, rfl, rfl, rfl, rfl⟩, .inl rfl⟩
    · obtain rfl := eq_of_next h hexec
      exact nomatch herr.symm.trans (hsame.trans hnoErr)
    · obtain rfl := eq_of_next h hexec
      obtain ⟨-, hsession, hobuf⟩ := (decMsg_outcome hexec).frame
      obtain ⟨out, l, sk, rfl⟩ := hlate
      exact ⟨hsession, .inr ⟨rfl, hearly, rfl, hobuf⟩⟩

/-! ## A pending command reaches its end (R151, R360, R372) -/

/-- A run of one more step. -/
theorem core_run_succ {k : Nat} {s t u : State} (hrun : core.run k s = .next t) (hstep : step t = .next u) :
    core.run (k + 1) s = .next u := by
  induction k generalizing s with
  | zero =>
    obtain rfl : s = t := Host.Outcome.next.inj hrun
    exact core_run_next s u 0 hstep
  | succ k ih =>
    obtain ⟨v, hv⟩ := step_next s
    rw [core_run_next s v _ hv] at hrun ⊢
    exact ih hrun

/-- `StillPending s t`: only host events came between `s` and `t`, so that `t` differs at most in the sticky flags, the
host, the count of draws and the schedule. -/
def StillPending (s t : State) : Prop := ∃ sched, OnlyFlagsAndHost { s with sched := sched } t

theorem StillPending.refl (s : State) : StillPending s s := ⟨s.sched, s.cmdOvr, s.wrIgn, s.host, s.draws, rfl⟩

theorem StillPending.trans {s t u : State} (hst : StillPending s t) (htu : StillPending t u) : StillPending s u := by
  obtain ⟨_, _, _, _, _, rfl⟩ := hst
  obtain ⟨sched, ovr, ign, host, n, rfl⟩ := htu
  exact ⟨sched, ovr, ign, host, n, rfl⟩

theorem StillPending.frame {s t : State} (h : StillPending s t) :
    t.pend = s.pend ∧ t.lastCmd = s.lastCmd ∧ SameOperands s t ∧ SameSession s t ∧ t.lfsr = s.lfsr ∧
      SameBytes s.ibuf t.ibuf := by
  obtain ⟨_, _, _, _, _, rfl⟩ := h
  exact ⟨rfl, rfl, ⟨rfl, rfl, rfl, rfl⟩, ⟨rfl, rfl, rfl, rfl, rfl⟩, rfl, sameBytes_refl _⟩

/-- Host events delay a pending command but end with the schedule: a run no longer than it reaches the next event of
another kind, the engine's or a reset of the schedule. -/
theorem exists_run_of_pending {s : State} (hpend : s.pend ≠ none) :
    ∃ k t, k ≤ s.sched.length ∧ core.run k s = .next t ∧ StillPending s t ∧ nextTurn t ≠ .host ∧
      (nextTurn t = .engine ∨ nextTurn t ∈ s.sched) := by
  induction hsched : s.sched generalizing s with
  | nil =>
    have hturn : nextTurn s = .engine := nextTurn_of_engineTurn hpend (.inl hsched)
    exact ⟨0, s, le_rfl, rfl, .refl s, by simp [hturn], .inl hturn⟩
  | cons event rest ih =>
    have hturn : nextTurn s = event := by rw [nextTurn, hsched]
    by_cases hevent : event = .host
    · subst hevent
      have hstep := step_of_hostTurn hsched
      obtain ⟨ovr, ign, host, n, ht⟩ := hostStep_busy (s := { s with sched := rest }) hpend
      rw [ht] at hstep
      obtain ⟨k, u, hk, hrun, hstill, hnext, hkind⟩ := ih (s := { s with
        sched := rest, cmdOvr := ovr, wrIgn := ign, host := host, draws := n }) hpend rfl
      exact ⟨k + 1, u, Nat.succ_le_succ hk, (core_run_next _ _ k hstep).trans hrun,
        .trans ⟨rest, ovr, ign, host, n, rfl⟩ hstill, hnext, hkind.imp_right (List.mem_cons_of_mem _)⟩
    · exact ⟨0, s, Nat.zero_le _, rfl, .refl s, hturn ▸ hevent, .inr (hturn ▸ List.mem_cons_self)⟩

/-- The engine's move with a word pending completes it, legal or not (R151). -/
theorem completed_of_complete {s t : State} (hpend : s.pend ≠ none) (h : complete s = .next t) : Completed t := by
  obtain ⟨w, hw⟩ := Option.ne_none_iff_exists'.1 hpend
  cases hd : decode w with
  | error e =>
    obtain rfl := eq_of_next (complete_of_illegal hw hd) h
    exact ⟨rfl, rfl⟩
  | ok i =>
    obtain ⟨hdone, -⟩ := exec_frame ((complete_of_decoded hw hd).symm.trans h)
    exact hdone

/-! ## Reset events (R360, R361) -/

/-- A host statement during reset changes the host only, and its access gets a bus error (R361). -/
theorem hostStep_busInReset (s : State) :
    ∃ host, hostStep busInReset s = { s with host := host } ∧
      ∀ a, s.host.script[s.host.pos]? = some (.access a) → host.resp = some .busErr := by
  refine ⟨(hostStep busInReset s).host, ?_, fun a haccess => by rw [hostStep_access haccess]; rfl⟩
  rcases hostStep_cases busInReset s with ⟨host, h⟩ | ⟨a, host, -, h⟩
  · rw [h]
  · rw [h]; rfl

theorem step_of_resetTurn {s : State} {rest : List Turn} (h : s.sched = .reset :: rest) :
    step s = .next (resetEngine { s with sched := rest }) := by
  rw [step, nextTurn, h, takeTurn, spendTurn, h, List.tail_cons]

theorem step_of_hostInResetTurn {s : State} {rest : List Turn} (h : s.sched = .hostInReset :: rest) :
    step s = .next (hostStep busInReset (resetEngine { s with sched := rest })) := by
  rw [step, nextTurn, h, takeTurn, spendTurn, h, List.tail_cons]

/-- A reset event leaves the engine reset, and the host as its statement during the reset leaves it, if one is made. -/
theorem step_of_resetEvent {s : State} {rest : List Turn}
    (h : s.sched = .reset :: rest ∨ s.sched = .hostInReset :: rest) :
    ∃ host, step s = .next { resetEngine { s with sched := rest } with host := host } ∧
      (s.sched = .reset :: rest → host = s.host) ∧
      (s.sched = .hostInReset :: rest → ∀ a, s.host.script[s.host.pos]? = some (.access a) →
        host.resp = some .busErr) := by
  rcases h with h | h
  · exact ⟨s.host, step_of_resetTurn h, fun _ => rfl, fun h' => nomatch h.symm.trans h'⟩
  · obtain ⟨host, hstep, hresp⟩ := hostStep_busInReset (resetEngine { s with sched := rest })
    exact ⟨host, (step_of_hostInResetTurn h).trans (congrArg _ hstep), fun h' => (nomatch h.symm.trans h'),
      fun _ => hresp⟩

/-- Settles O23: the engine's fields are those of State.reset, which O22 gives. -/
theorem resetSetsEveryEngineField : Obligations.ResetSetsEveryEngineField := by
  intro s rest hsched
  obtain ⟨host, hstep, hhost, hresp⟩ := step_of_resetEvent hsched
  obtain ⟨-, hstatus, -, -, -, -, -, -, -, -, -, -, -, -, hsklog, hibuf, hobuf⟩ := resetStateHoldsTheResetValues
  exact ⟨_, hstep, rfl, hstatus, rfl, rfl, rfl, rfl, rfl, rfl, rfl, rfl, hsklog, rfl, rfl, rfl, hibuf, hobuf, rfl, rfl,
    hhost, hresp⟩

/-! ## Nothing stays pending (R372) -/

/-- Every event but the host's leaves nothing pending: the engine completes the command, and a reset aborts it. -/
theorem pend_of_step {s t : State} (hturn : nextTurn s ≠ .host) (h : step s = .next t) : t.pend = none := by
  rcases step_cases s with ⟨hn, -⟩ | ⟨-, h'⟩ | ⟨-, h'⟩ | ⟨-, hpend, h'⟩ | ⟨-, w, e, -, -, h'⟩ | ⟨-, w, i, -, -, h'⟩
  · exact absurd hn hturn
  · obtain rfl := eq_of_next h' h
    rfl
  · obtain ⟨host, hhost, -⟩ := hostStep_busInReset (resetEngine (spendTurn s))
    obtain rfl := eq_of_next h' h
    rw [hhost]
    rfl
  · obtain rfl := eq_of_next h' h
    exact hpend
  · obtain rfl := eq_of_next h' h
    rfl
  · obtain ⟨⟨hpend, -⟩, -⟩ := exec_frame (h'.symm.trans h)
    exact hpend

/-- Settles O21: the run to the first event that is not the host's; with no reset on the schedule it is the engine's. -/
theorem pendingCommandCompletesInTime : Obligations.PendingCommandCompletesInTime := by
  refine ⟨fun s w hpend hreset hinReset => ?_, fun s => ?_⟩
  · have hsome : s.pend ≠ none := by simp [hpend]
    obtain ⟨k, t, hk, hrun, hstill, hhost, hkind⟩ := exists_run_of_pending hsome
    obtain ⟨hsame, hlast, hops, hsession, hlfsr, hibuf⟩ := hstill.frame
    have hturn : nextTurn t = .engine := by
      cases hevent : nextTurn t with
      | engine => rfl
      | host => exact absurd hevent hhost
      | reset | hostInReset => simp [hevent, hreset, hinReset] at hkind
    have hcomplete := step_of_engineTurn hturn
    obtain ⟨u, hu⟩ := step_next t
    have hdone : Completed u := completed_of_complete (s := spendTurn t) (hsame ▸ hsome) (hcomplete.symm.trans hu)
    exact ⟨k, t, u, hk, hrun, hsame.trans hpend, hlast, hops, hsession, hlfsr, hibuf, hturn, hcomplete, hu, hdone⟩
  · by_cases hpend : s.pend = none
    · exact ⟨0, s, Nat.zero_le _, rfl, hpend⟩
    · obtain ⟨k, t, hk, hrun, -, hhost, -⟩ := exists_run_of_pending hpend
      obtain ⟨u, hu⟩ := step_next t
      exact ⟨k + 1, u, Nat.succ_le_succ hk, core_run_succ hrun hu, pend_of_step hhost hu⟩

end Sys2Proof.Machine
end
